-- ==== Sys2Proof/Word.lean ====
section
/-! DEFINITION. The 32-bit word of the CORE: every register value, data-memory cell and operand field
is an unsigned 32-bit integer (00_scope.md R8). -/

namespace Sys2Proof

/-- A 32-bit value (R8). Bit 0 is the least significant bit (R9). -/
abbrev Word := BitVec 32

end Sys2Proof
end

