-- ==== Sys2Proof/Config.lean ====
section
/-! DEFINITION. The implementation parameters of 00_scope.md R7. Those the spec leaves OPEN (D6, D7, D19)
are opaque constants: nothing can be proved of their values, so a claim that meets them holds for every value.
`ILLEGAL_TAG_POLICY` has the one value `refuse` (D3), which `Machine.step` follows. -/

namespace Sys2Proof

/-- `REG_COUNT` of this hardware (R7, D4). Only `Machine.State.reset` uses it: a state's own register count is
the length of its register file, so claims about every state cover every admitted count. -/
def Config.regCount : Nat := 16

/-- The least register count the spec admits (R7, R21). -/
def Config.minRegCount : Nat := 8

/-- The greatest program length: L <= 2^32 - 1 (R25, D5). -/
def Config.maxProgLength : Nat := 2 ^ 32 - 1

/-- `DMEM_SIZE`, the number of data-memory cells at construction: OPEN, positive (R7, D6; log 4). -/
opaque Config.dmemSize : ℕ+

/-- `PROG_CAPACITY`, recorded at construction and read by no rule: OPEN, positive (R7, D19; log 5). -/
opaque Config.progCapacity : ℕ+

/-- `DMEM_INIT`, the contents of data memory at construction: OPEN, any function from cell index to
32-bit value (R7, R31, D7; log 3). -/
opaque Config.dmemInit : Nat → Word

end Sys2Proof
end

