-- ==== Sys2Proof/Machine/Memory.lean ====
section
/-! DEFINITION. Data memory: a flat sequence of M 32-bit cells (10_state.md R31, 20_memory.md R41, R42, R47). The cell
is the smallest addressable unit and has no byte layout (R44; log 1). It is held as a sparse list of (index, cell)
pairs in one canonical form. -/

namespace Sys2Proof.Machine

/-- Data memory: its size M and the cells whose value is not `Memory.unlisted`, by rising index (R31). -/
structure Memory where
  size : Nat
  cells : List (Nat × Word)
deriving DecidableEq, Repr

/-- What a cell that is not listed holds. It is the representation's choice of which cells need no entry, and no
statement about the contents at construction, which list every other cell (`Memory.ofInit`; log 2). -/
def Memory.unlisted : Word := 0#32

/-- The value listed for cell `a`, or `Memory.unlisted`. -/
def lookupCell (a : Nat) : List (Nat × Word) → Word
  | [] => Memory.unlisted
  | (k, v) :: rest => if k = a then v else lookupCell a rest

/-- List `v` for cell `a` in a list of rising index: an entry is replaced, inserted, or removed where `v` is what an
unlisted cell holds. -/
def putCell (a : Nat) (v : Word) : List (Nat × Word) → List (Nat × Word)
  | [] => if v = Memory.unlisted then [] else [(a, v)]
  | (k, w) :: rest =>
    if a < k then
      if v = Memory.unlisted then (k, w) :: rest else (a, v) :: (k, w) :: rest
    else if a = k then
      if v = Memory.unlisted then rest else (a, v) :: rest
    else
      (k, w) :: putCell a v rest

/-- `MemRead(a) = DMem[a]`, the whole cell (R42). Used for `a < M` only. -/
def Memory.read (m : Memory) (a : Nat) : Word := lookupCell a m.cells

/-- `MemWrite(a, v)`: the whole cell is replaced (R42). Used for `a < M` only. -/
def Memory.write (m : Memory) (a : Nat) (v : Word) : Memory := { m with cells := putCell a v m.cells }

/-- The canonical form: at least one cell (R191), indices strictly rising and below M, and no entry equal to what an
unlisted cell holds. -/
abbrev Memory.wf (m : Memory) : Prop :=
  0 < m.size ∧ m.cells.Pairwise (fun p q => p.1 < q.1) ∧ ∀ c ∈ m.cells, c.1 < m.size ∧ c.2 ≠ Memory.unlisted

/-- The entry that lists cell `a` with the value `init a`, if it needs one. -/
def initCell (init : Nat → Word) (a : Nat) : Option (Nat × Word) :=
  if init a = Memory.unlisted then none else some (a, init a)

/-- Data memory of `size` cells holding `init` (R191, D7). -/
def Memory.ofInit (size : Nat) (init : Nat → Word) : Memory where
  size := size
  cells := (List.range size).filterMap (initCell init)

end Sys2Proof.Machine
end

