-- ==== Sys2Proof/Syntax/Fields.lean ====
section
/-! DEFINITION. The instruction record of 30_encoding.md R60 and the decoded operand selectors of R68 to R70. -/

namespace Sys2Proof

/-- The instruction record (R60): an opcode tag and three 32-bit operands, all of any value. -/
structure Record where
  opcode : Word
  dst : Word
  src1 : Word
  src2 : Word
deriving DecidableEq, Repr

/-- The LOAD addressing modes, decoded from `src2` (R68). An invalid mode keeps its selector (log 11). -/
inductive LoadMode where
  | direct
  | indirect
  | immediate
  | invalidMode (selector : Word)
deriving DecidableEq, Repr

/-- The JMP conditions, decoded from `src1` (R69). `never` keeps its selector (log 11). -/
inductive JmpCond where
  | always
  | ifZF
  | never (selector : Word)
deriving DecidableEq, Repr

/-- The flag CHECK_FLAG reads, decoded from `src1` (R70). `zero` keeps its selector (log 11). -/
inductive FlagSel where
  | zf
  | cf
  | nf
  | of
  | df
  | zero (selector : Word)
deriving DecidableEq, Repr

end Sys2Proof
end

