-- ==== Sys2Proof/Machine/State.lean ====
section
/-! DEFINITION. The architectural state (10_state.md R20 to R32), the reasons a step can stop, and the state after
construction. READY and HALTED are a function of pc and L and are no field (R30). -/

namespace Sys2Proof.Machine

/-- The status register: five independent single bits (R26). -/
structure StatusRegister where
  /-- Index 0: the last CMP found its operands equal. -/
  zf : Bool
  /-- Index 1: the last ADD carried, or the last SUB borrowed. -/
  cf : Bool
  /-- Index 2: bit 31 of the last arithmetic result. -/
  nf : Bool
  /-- Index 3: the last MUL product did not fit in 32 bits. -/
  of : Bool
  /-- Index 4: the last DIV had a zero divisor. -/
  df : Bool
deriving DecidableEq, Repr

/-- The architectural state (R20). -/
structure State where
  /-- The general registers `x[0]` .. `x[N-1]`. N is the length (R21; log 6). -/
  regs : List Word
  /-- The program counter: the index of the next instruction to fetch (R24, D5). -/
  pc : Word
  /-- The status register (R26). -/
  flags : StatusRegister
  /-- Program memory. L is the length (R25). -/
  prog : List Record
  /-- Data memory and its size M (R31). -/
  dmem : Memory
  /-- The program capacity P given at construction: recorded, read by no rule (R7, R191, D19; log 5). -/
  progCapacity : Nat
deriving DecidableEq, Repr

/-- Why a step ends with no next state although nothing is refused. The spec has no exception and no trap (R170). -/
inductive Fault where
  /-- Raised by `step` alone, when pc >= L: the machine is HALTED and "has no step" (R30, R91). It is the end of a run
  (R102), not an error, and the state keeps everything (R183). Safe: no next state is invented (log 8). -/
  | halted
deriving DecidableEq, Repr

/-- Why the model gives no next state to something the spec gives no effect. -/
inductive Refusal where
  /-- Raised by an arm of `exec` that has no meaning yet. No arm does. Safe. -/
  | notModelled (mnemonic : String)
  /-- Raised by `step` when the record at the pc has a tag outside the catalog: `refuse(IllegalTag)` (R64, R93, D3).
  Safe: a claim about such a program cannot be proved (log 9). -/
  | illegalTag (tag : Word)
  /-- Raised by `loadProgram` for more than 2^32 - 1 records (R192, D5). Safe: such a load has no result (log 9). -/
  | programTooLong
deriving DecidableEq, Repr

/-- Every flag 0 (R28). -/
def StatusRegister.clear : StatusRegister where
  zf := false
  cf := false
  nf := false
  of := false
  df := false

/-- The state after construction with this hardware's parameters (R32, R191, D8): registers, flags and pc 0, program
memory empty, data memory `DMEM_INIT`. The machine is HALTED until a program is loaded (log 7, log 10). -/
def State.reset : State where
  regs := List.replicate Config.regCount 0#32
  pc := 0#32
  flags := StatusRegister.clear
  prog := []
  dmem := Memory.ofInit Config.dmemSize Config.dmemInit
  progCapacity := Config.progCapacity

end Sys2Proof.Machine
end

