-- ==== Sys2Proof/Machine/Flags.lean ====
section
/-! DEFINITION. The results and flags of the flag-producing instructions (10_state.md R26, R27; 42_arithmetic.md R130 to
R140; 43_compare_flags.md R150, R152). Arithmetic is on the exact integers and is narrowed at the end (R8, R139). The
flag partition is deliberate (R140): an update names exactly the flags its instruction owns. -/

namespace Sys2Proof.Machine

/-- `r[31]`, the bit NF copies (R9, R27). -/
def bit31 (r : Word) : Bool := r.getLsbD 31

/-- The ADD result: the exact sum modulo 2^32 (R130). -/
def addResult (a b : Word) : Word := BitVec.ofNat 32 (a.toNat + b.toNat)

/-- The ADD flags: CF when the exact sum exceeds 2^32 - 1, NF bit 31 of the result, OF cleared (R130, C3). -/
def addFlags (a b : Word) (f : StatusRegister) : StatusRegister :=
  { f with cf := decide (2 ^ 32 - 1 < a.toNat + b.toNat), nf := bit31 (addResult a b), of := false }

/-- The SUB result: the exact difference modulo 2^32 (R132). -/
def subResult (a b : Word) : Word := BitVec.ofInt 32 ((a.toNat : Int) - (b.toNat : Int))

/-- The SUB flags: CF on a borrow, NF bit 31 of the result, OF cleared (R132, C3). -/
def subFlags (a b : Word) (f : StatusRegister) : StatusRegister :=
  { f with cf := decide (a.toNat < b.toNat), nf := bit31 (subResult a b), of := false }

/-- The MUL result: the exact product modulo 2^32 (R134). -/
def mulResult (a b : Word) : Word := BitVec.ofNat 32 (a.toNat * b.toNat)

/-- The MUL flags: OF when the exact product exceeds 2^32 - 1, NF bit 31 of the result, CF kept (R134, R140). -/
def mulFlags (a b : Word) (f : StatusRegister) : StatusRegister :=
  { f with nf := bit31 (mulResult a b), of := decide (2 ^ 32 - 1 < a.toNat * b.toNat) }

/-- The DIV quotient for a divisor that is not zero: the floor (R136, R138). -/
def divResult (a b : Word) : Word := BitVec.ofNat 32 (a.toNat / b.toNat)

/-- The DIV flags for a divisor that is not zero (R136). -/
def divFlags (a b : Word) (f : StatusRegister) : StatusRegister :=
  { f with cf := false, nf := bit31 (divResult a b), of := false, df := false }

/-- The DIV flags for a zero divisor: DF set, OF and CF cleared, NF kept (R136, N7). -/
def divByZeroFlags (f : StatusRegister) : StatusRegister :=
  { f with cf := false, of := false, df := true }

/-- The CMP flags: ZF alone (R150, C11). -/
def cmpFlags (equal : Bool) (f : StatusRegister) : StatusRegister :=
  { f with zf := equal }

/-- The flag a CHECK_FLAG selector names; every other index reads 0 (R70, R152). -/
def flagValue (sel : FlagSel) (f : StatusRegister) : Bool :=
  match sel with
  | .zf => f.zf
  | .cf => f.cf
  | .nf => f.nf
  | .of => f.of
  | .df => f.df
  | .zero _ => false

/-- `zext_32` of one bit (R9, R152). -/
def zextBit (b : Bool) : Word := (BitVec.ofBool b).zeroExtend 32

/-- Whether a JMP with this condition jumps when its target is in bounds: ZF alone is tested (R69, R160). -/
def condHolds (cond : JmpCond) (f : StatusRegister) : Bool :=
  match cond with
  | .always => true
  | .ifZF => f.zf
  | .never _ => false

/-- The status register written as one number, bit i for flag index i: notation only, read by no instruction and by no
host operation (R26, D16). -/
def StatusRegister.packed (f : StatusRegister) : BitVec 5 :=
  BitVec.ofBool f.df ++ BitVec.ofBool f.of ++ BitVec.ofBool f.nf ++ BitVec.ofBool f.cf ++ BitVec.ofBool f.zf

end Sys2Proof.Machine
end

