-- ==== Sys2Proof/Machine/Ops.lean ====
section
/-! DEFINITION. The named operations over registers, pc, flags and data memory (00_scope.md R10), and the guard policy
every instruction obeys (40_execution_cycle.md R95). The CORE raises no exception and has no trap entry or return
(60_exceptions.md R170, R175, R176), so there is no operation for one. -/

namespace Sys2Proof.Machine

/-- `x[i]` read (R10). Every caller has checked `i < N`; the value given otherwise is used by nothing (log 15). -/
def State.readReg (s : State) (i : Word) : Word := s.regs.getD i.toNat 0#32

/-- `x[i] <- v` (R10). Every caller has checked `i < N`. -/
def State.writeReg (s : State) (i v : Word) : State := { s with regs := s.regs.set i.toNat v }

/-- `MemRead(a)` (R42). Every caller has checked `a < M`. -/
def State.memRead (s : State) (a : Word) : Word := s.dmem.read a.toNat

/-- `MemWrite(a, v)` (R42). Every caller has checked `a < M`. -/
def State.memWrite (s : State) (a v : Word) : State := { s with dmem := s.dmem.write a.toNat v }

/-- `pc <- t` (R10). -/
def State.setPc (s : State) (t : Word) : State := { s with pc := t }

/-- The status register replaced. -/
def State.setFlags (s : State) (f : StatusRegister) : State := { s with flags := f }

/-- `L` as the value HALT writes to the pc (R163). L <= 2^32 - 1, so it fits (D5);
in a state no run reaches it would wrap (log 16). -/
def State.programEnd (s : State) : Word := BitVec.ofNat 32 s.prog.length

/-- `nop`: nothing changes beyond the increment of R92, which is done before an instruction executes (R10). -/
def nop (s : State) : Host.Outcome State Fault Refusal := .next s

/-- The guard policy (R95): the effect where every guard holds, else a `nop`. Guards are evaluated on the state before
the instruction. -/
def guarded (guards : Bool) (effect : State → State) (s : State) : Host.Outcome State Fault Refusal :=
  .next (if guards then effect s else s)

end Sys2Proof.Machine
end

