-- ==== Sys2Proof/Machine/Operands.lean ====
section
/-! DEFINITION. The guards on an operand by its role (30_encoding.md R66, 40_execution_cycle.md R97), and the shape the
three-register arithmetic instructions share (42_arithmetic.md). A field is used whole and unchanged (R65). -/

namespace Sys2Proof.Machine

/-- Role R: the index names a register, `i < N` (R21, R97). -/
def State.hasReg (s : State) (i : Word) : Bool := decide (i.toNat < s.regs.length)

/-- Role A: the address names a cell, `a < M` (R41, R97). -/
def State.hasCell (s : State) (a : Word) : Bool := decide (a.toNat < s.dmem.size)

/-- Role T: the target names an instruction, `t < L` (R97, R160). -/
def State.hasTarget (s : State) (t : Word) : Bool := decide (t.toNat < s.prog.length)

/-- The guards of ADD, SUB, MUL and DIV: all three indices name registers (R97). -/
def State.hasRegs3 (s : State) (dst src1 src2 : Word) : Bool :=
  s.hasReg dst && s.hasReg src1 && s.hasReg src2

/-- ADD, SUB and MUL: both sources are read, then the result and the flags are written (R130, R132, R134). -/
def arith (result : Word → Word → Word) (flags : Word → Word → StatusRegister → StatusRegister)
    (dst src1 src2 : Word) (s : State) : Host.Outcome State Fault Refusal :=
  guarded (s.hasRegs3 dst src1 src2)
    (fun s => (s.writeReg dst (result (s.readReg src1) (s.readReg src2))).setFlags
      (flags (s.readReg src1) (s.readReg src2) s.flags)) s

end Sys2Proof.Machine
end

