-- ==== Sys2Proof/Machine/Arithmetic.lean ====
section
/-! DEFINITION. ADD, SUB, MUL and DIV (42_arithmetic.md). All operands are register indices (R66, C1). -/

namespace Sys2Proof.Machine

/-- ADD (R130). -/
def execAdd (dst src1 src2 : Word) (s : State) : Host.Outcome State Fault Refusal :=
  arith addResult addFlags dst src1 src2 s

/-- SUB (R132). -/
def execSub (dst src1 src2 : Word) (s : State) : Host.Outcome State Fault Refusal :=
  arith subResult subFlags dst src1 src2 s

/-- MUL (R134). -/
def execMul (dst src1 src2 : Word) (s : State) : Host.Outcome State Fault Refusal :=
  arith mulResult mulFlags dst src1 src2 s

/-- The effect of DIV once its guards hold: the zero test comes after them, and a zero divisor writes no register and
leaves NF (R136, R96). -/
def divEffect (dst src1 src2 : Word) (s : State) : State :=
  if s.readReg src2 = 0#32 then
    s.setFlags (divByZeroFlags s.flags)
  else
    (s.writeReg dst (divResult (s.readReg src1) (s.readReg src2))).setFlags
      (divFlags (s.readReg src1) (s.readReg src2) s.flags)

/-- DIV (R136). -/
def execDiv (dst src1 src2 : Word) (s : State) : Host.Outcome State Fault Refusal :=
  guarded (s.hasRegs3 dst src1 src2) (divEffect dst src1 src2) s

end Sys2Proof.Machine
end

