-- ==== Sys2Proof/Machine/CompareFlags.lean ====
section
/-! DEFINITION. CMP and CHECK_FLAG (43_compare_flags.md). -/

namespace Sys2Proof.Machine

/-- CMP: ZF is 1 when both indices name registers of equal value, else 0. An index out of range is not a `nop`
(R150, C7). -/
def execCmp (_dst src1 src2 : Word) (s : State) : Host.Outcome State Fault Refusal :=
  .next (s.setFlags
    (cmpFlags (s.hasReg src1 && s.hasReg src2 && decide (s.readReg src1 = s.readReg src2)) s.flags))

/-- CHECK_FLAG: the selected flag as 0 or 1 (R152). -/
def execCheckFlag (flag : FlagSel) (dst _src2 : Word) (s : State) : Host.Outcome State Fault Refusal :=
  guarded (s.hasReg dst) (fun s => s.writeReg dst (zextBit (flagValue flag s.flags))) s

end Sys2Proof.Machine
end

