-- ==== Sys2Proof/Machine/Control.lean ====
section
/-! DEFINITION. JMP and HALT (44_control.md). Both run on the advanced pc (R92). -/

namespace Sys2Proof.Machine

/-- JMP: to an absolute index below L, when the condition holds; otherwise skipped (R160). -/
def execJmp (cond : JmpCond) (target _src2 : Word) (s : State) : Host.Outcome State Fault Refusal :=
  guarded (s.hasTarget target && condHolds cond s.flags) (fun s => s.setPc target) s

/-- HALT: the pc becomes L, which is HALTED (R163, R30, C9). -/
def execHalt (_dst _src1 _src2 : Word) (s : State) : Host.Outcome State Fault Refusal :=
  .next (s.setPc s.programEnd)

end Sys2Proof.Machine
end

