-- ==== Sys2Proof/Machine/DataTransfer.lean ====
section
/-! DEFINITION. LOAD in its modes, STORE and MOV (41_data_transfer.md). Each runs after the pc increment (R92), writes no
flag, and takes every operand of its row, the ignored ones too (R71). -/

namespace Sys2Proof.Machine

/-- LOAD mode 0 (R110). -/
def execLoadDirect (dst src1 : Word) (s : State) : Host.Outcome State Fault Refusal :=
  guarded (s.hasReg dst && s.hasCell src1) (fun s => s.writeReg dst (s.memRead src1)) s

/-- LOAD mode 1: the address is read before the write, and checked after the register indices (R111, R96). -/
def execLoadIndirect (dst src1 : Word) (s : State) : Host.Outcome State Fault Refusal :=
  guarded (s.hasReg dst && s.hasReg src1 && s.hasCell (s.readReg src1))
    (fun s => s.writeReg dst (s.memRead (s.readReg src1))) s

/-- LOAD mode 2: `src1` is the value, not checked against anything (R112). -/
def execLoadImmediate (dst src1 : Word) (s : State) : Host.Outcome State Fault Refusal :=
  guarded (s.hasReg dst) (fun s => s.writeReg dst src1) s

/-- LOAD with an invalid mode: always a `nop` (R113). -/
def execLoadInvalid (_dst _src1 _mode : Word) (s : State) : Host.Outcome State Fault Refusal := nop s

/-- STORE: the address is the field `dst` itself (R115). -/
def execStore (dst src1 _src2 : Word) (s : State) : Host.Outcome State Fault Refusal :=
  guarded (s.hasCell dst && s.hasReg src1) (fun s => s.memWrite dst (s.readReg src1)) s

/-- MOV (R117). -/
def execMov (dst src1 _src2 : Word) (s : State) : Host.Outcome State Fault Refusal :=
  guarded (s.hasReg dst && s.hasReg src1) (fun s => s.writeReg dst (s.readReg src1)) s

end Sys2Proof.Machine
end

