-- ==== Sys2Proof/Syntax.lean ====
section
/-! DEFINITION. The instructions: one constructor per row of spec/opcode_table.json (30_encoding.md R66, R67, R74).
Operands the rule ignores (role X of R66) are kept as fields, so that no bit of a record is lost (log 11). -/

namespace Sys2Proof

/-- A decoded instruction. The row and its rule are named beside each constructor. -/
inductive Instr where
  /-- HALT, tag 0 (44_control.md R163). -/
  | halt (dst src1 src2 : Word)
  /-- LOAD.direct, tag 1, `src2 = 0` (41_data_transfer.md R110). -/
  | loadDirect (dst src1 : Word)
  /-- LOAD.indirect, tag 1, `src2 = 1` (R111). -/
  | loadIndirect (dst src1 : Word)
  /-- LOAD.immediate, tag 1, `src2 = 2` (R112). -/
  | loadImmediate (dst src1 : Word)
  /-- LOAD.invalid, tag 1, `src2 = mode >= 3` (R113). -/
  | loadInvalid (dst src1 mode : Word)
  /-- STORE, tag 2 (R115). -/
  | store (dst src1 src2 : Word)
  /-- ADD, tag 3 (42_arithmetic.md R130). -/
  | add (dst src1 src2 : Word)
  /-- SUB, tag 4 (R132). -/
  | sub (dst src1 src2 : Word)
  /-- MUL, tag 5 (R134). -/
  | mul (dst src1 src2 : Word)
  /-- DIV, tag 6 (R136). -/
  | div (dst src1 src2 : Word)
  /-- CMP, tag 7 (43_compare_flags.md R150). -/
  | cmp (dst src1 src2 : Word)
  /-- JMP, tag 8: the target is the field `dst`, the condition the decoded `src1` (44_control.md R160). -/
  | jmp (cond : JmpCond) (target src2 : Word)
  /-- MOV, tag 9 (R117). -/
  | mov (dst src1 src2 : Word)
  /-- CHECK_FLAG, tag 10: the flag is the decoded `src1` (R152). -/
  | checkFlag (flag : FlagSel) (dst src2 : Word)
deriving DecidableEq, Repr

end Sys2Proof
end

