-- ==== Sys2Proof/Machine/Dispatch.lean ====
section
/-! DEFINITION. Dispatch "by opcode tag to its handler" (40_execution_cycle.md R94): one arm per constructor. -/

namespace Sys2Proof.Machine

/-- The effect of a decoded instruction on a state whose pc has been advanced (R92, R94). -/
def exec (i : Instr) (s : State) : Host.Outcome State Fault Refusal :=
  match i with
  | .halt dst src1 src2 => Sys2Proof.Machine.execHalt dst src1 src2 s
  | .loadDirect dst src1 => Sys2Proof.Machine.execLoadDirect dst src1 s
  | .loadIndirect dst src1 => Sys2Proof.Machine.execLoadIndirect dst src1 s
  | .loadImmediate dst src1 => Sys2Proof.Machine.execLoadImmediate dst src1 s
  | .loadInvalid dst src1 mode => Sys2Proof.Machine.execLoadInvalid dst src1 mode s
  | .store dst src1 src2 => Sys2Proof.Machine.execStore dst src1 src2 s
  | .add dst src1 src2 => Sys2Proof.Machine.execAdd dst src1 src2 s
  | .sub dst src1 src2 => Sys2Proof.Machine.execSub dst src1 src2 s
  | .mul dst src1 src2 => Sys2Proof.Machine.execMul dst src1 src2 s
  | .div dst src1 src2 => Sys2Proof.Machine.execDiv dst src1 src2 s
  | .cmp dst src1 src2 => Sys2Proof.Machine.execCmp dst src1 src2 s
  | .jmp cond target src2 => Sys2Proof.Machine.execJmp cond target src2 s
  | .mov dst src1 src2 => Sys2Proof.Machine.execMov dst src1 src2 s
  | .checkFlag flag dst src2 => Sys2Proof.Machine.execCheckFlag flag dst src2 s

end Sys2Proof.Machine
end

