-- ==== Sys2Proof/WellFormed.lean ====
section
/-! DEFINITION. Which terms of `Instr` stand for an instruction word: a selector kept by the "other" case of
30_encoding.md R68, R69 or R70 must be one that case covers. Operand values are otherwise free, since "no validation is
performed when an instruction is constructed" (R60): bounds are guards at execution. -/

namespace Sys2Proof

/-- The selector of a `JmpCond` is one R69 gives that condition. -/
def JmpCond.wellFormed : JmpCond → Bool
  | .always => true
  | .ifZF => true
  | .never selector => decide (2 ≤ selector.toNat)

/-- The selector of a `FlagSel` is one R70 gives that flag. -/
def FlagSel.wellFormed : FlagSel → Bool
  | .zf => true
  | .cf => true
  | .nf => true
  | .of => true
  | .df => true
  | .zero selector => decide (5 ≤ selector.toNat)

/-- The term is the decoding of some word (R68, R69, R70). -/
def Instr.wellFormed : Instr → Bool
  | .halt _ _ _ => true
  | .loadDirect _ _ => true
  | .loadIndirect _ _ => true
  | .loadImmediate _ _ => true
  | .loadInvalid _ _ mode => decide (3 ≤ mode.toNat)
  | .store _ _ _ => true
  | .add _ _ _ => true
  | .sub _ _ _ => true
  | .mul _ _ _ => true
  | .div _ _ _ => true
  | .cmp _ _ _ => true
  | .jmp cond _ _ => cond.wellFormed
  | .mov _ _ _ => true
  | .checkFlag flag _ _ => flag.wellFormed

end Sys2Proof
end

