-- ==== Sys2Proof/Decode.lean ====
section
/-! DEFINITION. The 128-bit instruction word (30_encoding.md R62), the decoder (R63 to R70), the encoder, and the
opcode map of R74 as a table. The decoder reads no state and checks no bounds (R67). -/

namespace Sys2Proof

/-- Why a record spells no instruction. -/
inductive DecodeError where
  /-- The opcode field is outside the catalog, a value in [11, 2^32 - 1] (R64). -/
  | illegalTag (tag : Word)
deriving DecidableEq, Repr

/-- The record an instruction word holds: `opcode` is bits 127:96, `dst` 95:64, `src1` 63:32, `src2` 31:0 (R62). -/
def Record.ofWord (w : BitVec 128) : Record where
  opcode := w.extractLsb' 96 32
  dst := w.extractLsb' 64 32
  src1 := w.extractLsb' 32 32
  src2 := w.extractLsb' 0 32

/-- The instruction word of a record: the four fields side by side, the opcode highest (R62). -/
def Record.toWord (r : Record) : BitVec 128 :=
  r.opcode ++ r.dst ++ r.src1 ++ r.src2

/-- The LOAD addressing mode of a `src2` field (R68). -/
def loadMode (src2 : Word) : LoadMode :=
  match src2.toNat with
  | 0 => .direct
  | 1 => .indirect
  | 2 => .immediate
  | _ => .invalidMode src2

/-- The JMP condition of a `src1` field (R69). -/
def jmpCond (src1 : Word) : JmpCond :=
  match src1.toNat with
  | 0 => .always
  | 1 => .ifZF
  | _ => .never src1

/-- The flag a CHECK_FLAG's `src1` field selects (R70). -/
def flagSel (src1 : Word) : FlagSel :=
  match src1.toNat with
  | 0 => .zf
  | 1 => .cf
  | 2 => .nf
  | 3 => .of
  | 4 => .df
  | _ => .zero src1

/-- The LOAD row of an addressing mode (R67, R74). -/
def decodeLoad (mode : LoadMode) (dst src1 : Word) : Instr :=
  match mode with
  | .direct => .loadDirect dst src1
  | .indirect => .loadIndirect dst src1
  | .immediate => .loadImmediate dst src1
  | .invalidMode selector => .loadInvalid dst src1 selector

/-- The decoder over records: total, rejecting every tag outside the catalog by name (R63, R64, R67). -/
def decode (r : Record) : Except DecodeError Instr :=
  match r.opcode.toNat with
  | 0 => .ok (.halt r.dst r.src1 r.src2)
  | 1 => .ok (decodeLoad (loadMode r.src2) r.dst r.src1)
  | 2 => .ok (.store r.dst r.src1 r.src2)
  | 3 => .ok (.add r.dst r.src1 r.src2)
  | 4 => .ok (.sub r.dst r.src1 r.src2)
  | 5 => .ok (.mul r.dst r.src1 r.src2)
  | 6 => .ok (.div r.dst r.src1 r.src2)
  | 7 => .ok (.cmp r.dst r.src1 r.src2)
  | 8 => .ok (.jmp (jmpCond r.src1) r.dst r.src2)
  | 9 => .ok (.mov r.dst r.src1 r.src2)
  | 10 => .ok (.checkFlag (flagSel r.src1) r.dst r.src2)
  | _ => .error (.illegalTag r.opcode)

/-- The decoder over 128-bit words (R62, R67). -/
def decodeWord (w : BitVec 128) : Except DecodeError Instr :=
  decode (Record.ofWord w)

/-- The instruction of an opcode-table word: the number `w` is cut to its `nbits` bits and read as one instruction
word, whose bit 0 is the table's bit 0 (R62, R74). -/
def decodeTableWord (nbits w : Nat) : Option Instr :=
  match decodeWord (BitVec.ofNat 128 (w % 2 ^ nbits)) with
  | .ok i => some i
  | .error _ => none

/-- The `src1` field of a JMP condition (R69). -/
def JmpCond.selector : JmpCond → Word
  | .always => 0#32
  | .ifZF => 1#32
  | .never selector => selector

/-- The `src1` field of a CHECK_FLAG flag (R70). -/
def FlagSel.selector : FlagSel → Word
  | .zf => 0#32
  | .cf => 1#32
  | .nf => 2#32
  | .of => 3#32
  | .df => 4#32
  | .zero selector => selector

/-- The record of an instruction (R60, R63, R66). -/
def encode : Instr → Record
  | .halt dst src1 src2 => ⟨0#32, dst, src1, src2⟩
  | .loadDirect dst src1 => ⟨1#32, dst, src1, 0#32⟩
  | .loadIndirect dst src1 => ⟨1#32, dst, src1, 1#32⟩
  | .loadImmediate dst src1 => ⟨1#32, dst, src1, 2#32⟩
  | .loadInvalid dst src1 mode => ⟨1#32, dst, src1, mode⟩
  | .store dst src1 src2 => ⟨2#32, dst, src1, src2⟩
  | .add dst src1 src2 => ⟨3#32, dst, src1, src2⟩
  | .sub dst src1 src2 => ⟨4#32, dst, src1, src2⟩
  | .mul dst src1 src2 => ⟨5#32, dst, src1, src2⟩
  | .div dst src1 src2 => ⟨6#32, dst, src1, src2⟩
  | .cmp dst src1 src2 => ⟨7#32, dst, src1, src2⟩
  | .jmp cond target src2 => ⟨8#32, target, cond.selector, src2⟩
  | .mov dst src1 src2 => ⟨9#32, dst, src1, src2⟩
  | .checkFlag flag dst src2 => ⟨10#32, dst, flag.selector, src2⟩

/-- The 128-bit word of an instruction (R62). -/
def encodeWord (i : Instr) : BitVec 128 :=
  (encode i).toWord

/-- The row of spec/opcode_table.json an instruction belongs to. -/
def Instr.mnemonic : Instr → String
  | .halt _ _ _ => "HALT"
  | .loadDirect _ _ => "LOAD.direct"
  | .loadIndirect _ _ => "LOAD.indirect"
  | .loadImmediate _ _ => "LOAD.immediate"
  | .loadInvalid _ _ _ => "LOAD.invalid"
  | .store _ _ _ => "STORE"
  | .add _ _ _ => "ADD"
  | .sub _ _ _ => "SUB"
  | .mul _ _ _ => "MUL"
  | .div _ _ _ => "DIV"
  | .cmp _ _ _ => "CMP"
  | .jmp _ _ _ => "JMP"
  | .mov _ _ _ => "MOV"
  | .checkFlag _ _ _ => "CHECK_FLAG"

/-- One row of the opcode map: a word selects it when `w &&& mask = pattern` (R74). -/
structure OpcodeRow where
  mnemonic : String
  pattern : BitVec 128
  mask : BitVec 128
deriving DecidableEq, Repr

/-- The opcode map of R74, in the order its rows are checked: the three LOAD modes before the generic LOAD row. -/
def opcodeMap : List OpcodeRow :=
  [⟨"HALT", 0x00000000000000000000000000000000#128, 0xFFFFFFFF000000000000000000000000#128⟩,
   ⟨"LOAD.direct", 0x00000001000000000000000000000000#128, 0xFFFFFFFF0000000000000000FFFFFFFF#128⟩,
   ⟨"LOAD.indirect", 0x00000001000000000000000000000001#128, 0xFFFFFFFF0000000000000000FFFFFFFF#128⟩,
   ⟨"LOAD.immediate", 0x00000001000000000000000000000002#128, 0xFFFFFFFF0000000000000000FFFFFFFF#128⟩,
   ⟨"LOAD.invalid", 0x00000001000000000000000000000000#128, 0xFFFFFFFF000000000000000000000000#128⟩,
   ⟨"STORE", 0x00000002000000000000000000000000#128, 0xFFFFFFFF000000000000000000000000#128⟩,
   ⟨"ADD", 0x00000003000000000000000000000000#128, 0xFFFFFFFF000000000000000000000000#128⟩,
   ⟨"SUB", 0x00000004000000000000000000000000#128, 0xFFFFFFFF000000000000000000000000#128⟩,
   ⟨"MUL", 0x00000005000000000000000000000000#128, 0xFFFFFFFF000000000000000000000000#128⟩,
   ⟨"DIV", 0x00000006000000000000000000000000#128, 0xFFFFFFFF000000000000000000000000#128⟩,
   ⟨"CMP", 0x00000007000000000000000000000000#128, 0xFFFFFFFF000000000000000000000000#128⟩,
   ⟨"JMP", 0x00000008000000000000000000000000#128, 0xFFFFFFFF000000000000000000000000#128⟩,
   ⟨"MOV", 0x00000009000000000000000000000000#128, 0xFFFFFFFF000000000000000000000000#128⟩,
   ⟨"CHECK_FLAG", 0x0000000A000000000000000000000000#128, 0xFFFFFFFF000000000000000000000000#128⟩]

/-- The row of the opcode map a word selects, if any (R74). -/
def opcodeRow (w : BitVec 128) : Option OpcodeRow :=
  opcodeMap.find? fun row => w &&& row.mask == row.pattern

end Sys2Proof
end

