-- ==== Sys2Proof/Machine/Fetch.lean ====
section
/-! DEFINITION. The fetch side of the step: READY and HALTED, the record at the pc, the increment, and the placing of a
record where the next fetch reads it (10_state.md R30, 40_execution_cycle.md R91, R92). -/

namespace Sys2Proof.Machine

/-- READY: pc < L (R30). -/
abbrev State.ready (s : State) : Prop := s.pc.toNat < s.prog.length

/-- HALTED: pc >= L (R30). -/
abbrev State.halted (s : State) : Prop := s.prog.length ≤ s.pc.toNat

/-- `Prog[pc]` where pc < L (R91). -/
def State.fetch (s : State) : Option Record := s.prog[s.pc.toNat]?

/-- `pc <- pc + 1` (R92). The sum is taken modulo 2^32, which no state of the invariant shows (R24; log 16). -/
def State.advance (s : State) : State := { s with pc := s.pc + 1#32 }

/-- The 128-bit word of the low `nbits` bits of `w`, every higher bit 0 (R62). -/
def tableWord (nbits w : Nat) : BitVec 128 := BitVec.ofNat 128 (w % 2 ^ nbits)

/-- Program memory with `r` at index `k`: the entry there is replaced, or program memory is extended up to it with the
record of all zeros. -/
def placeRecord (prog : List Record) (k : Nat) (r : Record) : List Record :=
  prog.take k ++ List.replicate (k - prog.length) ⟨0#32, 0#32, 0#32, 0#32⟩ ++ r :: prog.drop (k + 1)

end Sys2Proof.Machine
end

