-- ==== Sys2Proof/Machine/Step.lean ====
section
/-! DEFINITION. One step of the fetch-decode-execute cycle (40_execution_cycle.md R90 to R98). -/

namespace Sys2Proof.Machine

/-- The step (R98): HALTED has no step (R91), a record outside the catalog is refused before the pc is advanced (R93), and
otherwise the decoded instruction executes on the advanced pc (R92, R94). -/
def step (s : State) : Host.Outcome State Fault Refusal :=
  match s.fetch with
  | none => .fault .halted
  | some r =>
    match decode r with
    | .error (.illegalTag tag) => .refused (.illegalTag tag)
    | .ok i => exec i s.advance

/-- `s` with the instruction whose bits are `w` stored at the pc, in program memory, where the next step fetches it: it
stands for the host's `loadProgram` (R192; log 10). -/
def State.withFetchWord (s : State) (nbits w : Nat) : State :=
  { s with prog := placeRecord s.prog s.pc.toNat (Record.ofWord (tableWord nbits w)) }

end Sys2Proof.Machine
end

