-- ==== Sys2Proof/Machine/Assembler.lean ====
section
/-! DEFINITION. Assembler text (30_encoding.md R80, D15): `MNEMONIC dst,src1,src2`, a register-role field as `Ri`, every other
field as a number, trailing operands omitted being 0. It is notation for a record and changes no meaning. What R80
leaves open about the text is in log 14. -/

namespace Sys2Proof.Machine

/-- The catalog names, in the order that numbers the tags (R61, R63). -/
def catalog : List String :=
  ["HALT", "LOAD", "STORE", "ADD", "SUB", "MUL", "DIV", "CMP", "JMP", "MOV", "CHECK_FLAG"]

/-- The tag of a catalog name (R63, R80). -/
def opcodeOfName (name : List Char) : Option Nat := catalog.findIdx? fun n => n.toList == name

/-- The value of a digit in base 10 or 16. -/
def digitValue (base : Nat) (c : Char) : Option Nat :=
  if '0' ≤ c ∧ c ≤ '9' then some (c.toNat - 48)
  else if base = 16 ∧ 'a' ≤ c ∧ c ≤ 'f' then some (c.toNat - 87)
  else if base = 16 ∧ 'A' ≤ c ∧ c ≤ 'F' then some (c.toNat - 55)
  else none

/-- The number the digits spell after `acc`. -/
def digitsFrom (base : Nat) (acc : Nat) : List Char → Option Nat
  | [] => some acc
  | c :: rest =>
    match digitValue base c with
    | some d => digitsFrom base (base * acc + d) rest
    | none => none

/-- A number of at least one digit that is a 32-bit value (R8). -/
def parseDigits (base : Nat) (text : List Char) : Option Word :=
  match text with
  | [] => none
  | c :: rest =>
    match digitsFrom base 0 (c :: rest) with
    | some n => if n < 2 ^ 32 then some (BitVec.ofNat 32 n) else none
    | none => none

/-- How a field is written: with `R` or without (R80). -/
inductive FieldForm where
  | register
  | number
deriving DecidableEq, Repr

/-- A field in role R is `Ri`; every other field is an unsigned decimal, or a hexadecimal with a `0x` prefix (R80). -/
def parseField (form : FieldForm) (text : List Char) : Option Word :=
  match form, text with
  | .register, 'R' :: digits => parseDigits 10 digits
  | .register, _ => none
  | .number, '0' :: 'x' :: digits => parseDigits 16 digits
  | .number, digits => parseDigits 10 digits

/-- The forms of `dst` and `src1` and `src2` of a tag, by their roles (R66, R80). LOAD's `src1` is in role R in mode 1
alone, so its form depends on the value of `src2`. -/
def fieldForms (tag : Nat) (mode : Word) : FieldForm × FieldForm × FieldForm :=
  match tag with
  | 0 => (.number, .number, .number)
  | 1 => (.register, if mode = 1#32 then .register else .number, .number)
  | 2 => (.number, .register, .number)
  | 3 => (.register, .register, .register)
  | 4 => (.register, .register, .register)
  | 5 => (.register, .register, .register)
  | 6 => (.register, .register, .register)
  | 7 => (.number, .register, .register)
  | 8 => (.number, .number, .number)
  | 9 => (.register, .register, .number)
  | _ => (.register, .number, .number)

/-- The text up to the first `sep`, and the text after it where there is one. -/
def splitFirst (sep : Char) : List Char → List Char × Option (List Char)
  | [] => ([], none)
  | c :: rest =>
    if c = sep then ([], some rest)
    else (c :: (splitFirst sep rest).1, (splitFirst sep rest).2)

/-- A field that may be omitted, and is then 0 (R80). -/
def parseOptional (form : FieldForm) : Option (List Char) → Option Word
  | none => some 0#32
  | some text => parseField form text

/-- The record of a tag and the texts of its three fields. -/
def assembleFields (tag : Nat) (dst src1 src2 : Option (List Char)) : Option Record :=
  match parseOptional (fieldForms tag 0#32).2.2 src2 with
  | none => none
  | some mode =>
    match parseOptional (fieldForms tag mode).1 dst, parseOptional (fieldForms tag mode).2.1 src1 with
    | some d, some s => some ⟨BitVec.ofNat 32 tag, d, s, mode⟩
    | _, _ => none

/-- The record of one line of assembler text, or nothing where the text is rejected (R80). -/
def assemble (text : String) : Option Record :=
  let (name, operands) := splitFirst ' ' text.toList
  match opcodeOfName name with
  | none => none
  | some tag =>
    match operands with
    | none => assembleFields tag none none none
    | some fields =>
      let (dst, rest1) := splitFirst ',' fields
      match rest1 with
      | none => assembleFields tag (some dst) none none
      | some fields1 =>
        let (src1, rest2) := splitFirst ',' fields1
        assembleFields tag (some dst) (some src1) rest2

end Sys2Proof.Machine
end

