-- ==== Sys2Proof/Machine/HostOps.lean ====
section
/-! DEFINITION. The host interface but for `run` (70_reset_and_hazards.md R190 to R200). The operations are no part of
`step`: the host has no move while a run executes (D18; log 12). -/

namespace Sys2Proof.Machine

/-- Construction with the two positive sizes P and M, and `DMEM_INIT` (R191, R32, D8). -/
def construct (capacity size : ℕ+) (init : Nat → Word) : State where
  regs := List.replicate Config.regCount 0#32
  pc := 0#32
  flags := StatusRegister.clear
  prog := []
  dmem := Memory.ofInit size init
  progCapacity := capacity

/-- What a program load and a reset share: pc, flags and every register become 0 (R192, R193). -/
def State.clearEngine (s : State) : State :=
  { s with regs := List.replicate s.regs.length 0#32, pc := 0#32, flags := StatusRegister.clear }

/-- `loadProgram(p)`: program memory is replaced and the engine cleared, data memory is kept. More than 2^32 - 1 records are
refused (R192, D5). No record is validated (R60). -/
def loadProgram (p : List Record) (s : State) : Host.Outcome State Fault Refusal :=
  if p.length ≤ Config.maxProgLength then .next ({ s with prog := p } : State).clearEngine
  else .refused .programTooLong

/-- `reset()`: the engine is cleared, program and data memory are kept (R193). -/
def resetOp (s : State) : State := s.clearEngine

/-- `setMemoryValue(a, v)`: nothing changes when `a >= M` (R197). -/
def setMemoryValue (a v : Word) (s : State) : State := if s.hasCell a then s.memWrite a v else s

/-- `getMemoryValue(a)`: 0 when `a >= M` (R198). -/
def getMemoryValue (a : Word) (s : State) : Word := if s.hasCell a then s.memRead a else 0#32

/-- `getStatusRegister()`: a snapshot of the five flags by value (R199). -/
def getStatusRegister (s : State) : StatusRegister := s.flags

/-- The host operations on a constructed CORE, but for `run` (R196). -/
inductive HostOp where
  | loadProgram (p : List Record)
  | reset
  | setMemoryValue (a v : Word)
  | getMemoryValue (a : Word)
  | getStatusRegister
deriving DecidableEq, Repr

/-- What the host gets back (R196). -/
inductive HostReply where
  | nothing
  | value (v : Word)
  | flags (f : StatusRegister)
deriving DecidableEq, Repr

/-- The state after a host operation (R196): the two reads change nothing. -/
def hostStep (op : HostOp) (s : State) : Host.Outcome State Fault Refusal :=
  match op with
  | .loadProgram p => loadProgram p s
  | .reset => .next (resetOp s)
  | .setMemoryValue a v => .next (setMemoryValue a v s)
  | .getMemoryValue _ => .next s
  | .getStatusRegister => .next s

/-- What the host gets back from an operation (R196). -/
def hostReply (op : HostOp) (s : State) : HostReply :=
  match op with
  | .loadProgram _ => .nothing
  | .reset => .nothing
  | .setMemoryValue _ _ => .nothing
  | .getMemoryValue a => .value (getMemoryValue a s)
  | .getStatusRegister => .flags (getStatusRegister s)

end Sys2Proof.Machine
end

