-- ==== Sys2Proof/Machine/Run.lean ====
section
/-! DEFINITION. The host operation `run` (40_execution_cycle.md R100 to R102): the step repeated from the current pc. A run
may never end (R101), so it is given an executor's fuel, and running out of fuel is reported as such, never as an end (log 13). -/

namespace Sys2Proof.Machine

/-- How `fuel` steps of a run leave the CORE. -/
inductive RunResult where
  /-- The run ended in this HALTED state (R102). -/
  | ended (s : State)
  /-- The fuel is used up and the machine is still READY in this state (R101). -/
  | outOfFuel (s : State)
  /-- This state was marked refused, which is no end (R93, R102). -/
  | refused (s : State) (r : Refusal)
deriving DecidableEq, Repr

/-- `run()` with fuel for at most `fuel` instructions. On a HALTED machine it executes nothing (R100). -/
def run (fuel : Nat) (s : State) : RunResult :=
  match step s with
  | .fault .halted => .ended s
  | .refused r => .refused s r
  | .next t =>
    match fuel with
    | 0 => .outOfFuel s
    | n + 1 => run n t

end Sys2Proof.Machine
end

