-- ==== Sys2Proof/Safety.lean ====
section
/-! DEFINITION. The terms claims use: the states the CORE can be in, what an instruction reads and writes by the tables
of the spec, what a step leaves unchanged, and what a safe run is. -/

namespace Sys2Proof

/-- The register an instruction may write (R22). -/
def Instr.destReg : Instr → Option Word
  | .halt _ _ _ => none
  | .loadDirect dst _ => some dst
  | .loadIndirect dst _ => some dst
  | .loadImmediate dst _ => some dst
  | .loadInvalid _ _ _ => none
  | .store _ _ _ => none
  | .add dst _ _ => some dst
  | .sub dst _ _ => some dst
  | .mul dst _ _ => some dst
  | .div dst _ _ => some dst
  | .cmp _ _ _ => none
  | .jmp _ _ _ => none
  | .mov dst _ _ => some dst
  | .checkFlag _ dst _ => some dst

/-- The flags an instruction may write, its row of the ownership table (R27). -/
def Instr.ownedFlags : Instr → List FlagSel
  | .halt _ _ _ => []
  | .loadDirect _ _ => []
  | .loadIndirect _ _ => []
  | .loadImmediate _ _ => []
  | .loadInvalid _ _ _ => []
  | .store _ _ _ => []
  | .add _ _ _ => [.cf, .nf, .of]
  | .sub _ _ _ => [.cf, .nf, .of]
  | .mul _ _ _ => [.nf, .of]
  | .div _ _ _ => [.cf, .nf, .of, .df]
  | .cmp _ _ _ => [.zf]
  | .jmp _ _ _ => []
  | .mov _ _ _ => []
  | .checkFlag _ _ _ => []

/-- The instruction may write data memory (R46). -/
def Instr.writesMemory : Instr → Bool
  | .halt _ _ _ => false
  | .loadDirect _ _ => false
  | .loadIndirect _ _ => false
  | .loadImmediate _ _ => false
  | .loadInvalid _ _ _ => false
  | .store _ _ _ => true
  | .add _ _ _ => false
  | .sub _ _ _ => false
  | .mul _ _ _ => false
  | .div _ _ _ => false
  | .cmp _ _ _ => false
  | .jmp _ _ _ => false
  | .mov _ _ _ => false
  | .checkFlag _ _ _ => false

/-- The instruction may read data memory: LOAD modes 0 and 1 (R46). -/
def Instr.readsMemory : Instr → Bool
  | .halt _ _ _ => false
  | .loadDirect _ _ => true
  | .loadIndirect _ _ => true
  | .loadImmediate _ _ => false
  | .loadInvalid _ _ _ => false
  | .store _ _ _ => false
  | .add _ _ _ => false
  | .sub _ _ _ => false
  | .mul _ _ _ => false
  | .div _ _ _ => false
  | .cmp _ _ _ => false
  | .jmp _ _ _ => false
  | .mov _ _ _ => false
  | .checkFlag _ _ _ => false

/-- The instruction may write the pc: JMP and HALT (R92, R165). -/
def Instr.writesPc : Instr → Bool
  | .halt _ _ _ => true
  | .loadDirect _ _ => false
  | .loadIndirect _ _ => false
  | .loadImmediate _ _ => false
  | .loadInvalid _ _ _ => false
  | .store _ _ _ => false
  | .add _ _ _ => false
  | .sub _ _ _ => false
  | .mul _ _ _ => false
  | .div _ _ _ => false
  | .cmp _ _ _ => false
  | .jmp _ _ _ => true
  | .mov _ _ _ => false
  | .checkFlag _ _ _ => false

end Sys2Proof

namespace Sys2Proof.Machine

/-- The invariant of the CORE's state: at least 8 registers (R21), L <= 2^32 - 1 (R25), pc <= L (R24), data memory of
at least one cell in its canonical form (R191), a positive program capacity (R191). -/
abbrev State.wf (s : State) : Prop :=
  Config.minRegCount ≤ s.regs.length ∧ s.prog.length ≤ Config.maxProgLength ∧ s.pc.toNat ≤ s.prog.length ∧
    s.dmem.wf ∧ 0 < s.progCapacity

/-- Every record of program memory has a tag of the catalog (R61). -/
abbrev State.legalProgram (s : State) : Prop := ∀ r ∈ s.prog, r.opcode.toNat < 11

/-- `k` steps, each with a next state, lead from `s` to `t`. -/
def stepsTo : Nat → State → State → Prop
  | 0, s, t => s = t
  | k + 1, s, t => ∃ u, step s = .next u ∧ stepsTo k u t

/-- A safe state: the machine is HALTED and has no step, or it is READY and a step has a next state (R91, R170). -/
def State.safe (s : State) : Prop :=
  (s.halted ∧ step s = .fault .halted) ∨ (s.ready ∧ ∃ t, step s = .next t)

/-- The state with another program capacity recorded (R191). -/
def State.withCapacity (p : Nat) (s : State) : State := { s with progCapacity := p }

/-- An outcome with its next state, if it has one, changed by `f`. -/
def mapNext (f : State → State) (o : Host.Outcome State Fault Refusal) : Host.Outcome State Fault Refusal :=
  match o with
  | .next s => .next (f s)
  | .fault r => .fault r
  | .refused r => .refused r

/-- The state a run leaves the CORE in. -/
def RunResult.state (o : RunResult) : State :=
  match o with
  | .ended s => s
  | .outOfFuel s => s
  | .refused s _ => s

/-- The result of a run with the state it leaves changed by `f`. -/
def RunResult.mapState (f : State → State) (o : RunResult) : RunResult :=
  match o with
  | .ended s => .ended (f s)
  | .outOfFuel s => .outOfFuel (f s)
  | .refused s r => .refused (f s) r

/-- The parameters and program memory, which no instruction changes: N, M, P, and Prog with L (R7, R52). -/
def sameFixed (s t : State) : Prop :=
  t.regs.length = s.regs.length ∧ t.dmem.size = s.dmem.size ∧ t.progCapacity = s.progCapacity ∧ t.prog = s.prog

/-- Every register but the one numbered `d` reads as before. -/
def sameRegsBut (d : Word) (s t : State) : Prop := ∀ k : Nat, k ≠ d.toNat → t.regs[k]? = s.regs[k]?

/-- Every cell of data memory but cell `a` reads as before. -/
def sameCellsBut (a : Word) (s t : State) : Prop := ∀ k : Nat, k ≠ a.toNat → t.dmem.read k = s.dmem.read k

/-- Every cell of data memory reads as before. -/
def sameCells (s t : State) : Prop := ∀ k : Nat, t.dmem.read k = s.dmem.read k

/-- The frame of an instruction that writes one register and no flag, cell or pc. -/
def onlyRegChanges (d : Word) (s t : State) : Prop :=
  sameFixed s t ∧ sameRegsBut d s t ∧ sameCells s t ∧ t.flags = s.flags ∧ t.pc = s.pc

/-- The frame of an instruction that writes one register and flags, and no cell or pc. -/
def onlyRegAndFlagsChange (d : Word) (s t : State) : Prop :=
  sameFixed s t ∧ sameRegsBut d s t ∧ sameCells s t ∧ t.pc = s.pc

/-- The frame of an instruction that writes flags alone. -/
def onlyFlagsChange (s t : State) : Prop :=
  sameFixed s t ∧ t.regs = s.regs ∧ sameCells s t ∧ t.pc = s.pc

/-- The frame of an instruction that writes the pc alone. -/
def onlyPcChanges (s t : State) : Prop :=
  sameFixed s t ∧ t.regs = s.regs ∧ sameCells s t ∧ t.flags = s.flags

/-- The table of guards (R97): what must hold for the instruction not to be a `nop`. CMP has none for the `nop` rule. JMP
has its target bound, its condition aside. -/
def guardsHold (i : Instr) (s : State) : Prop :=
  match i with
  | .halt _ _ _ => True
  | .loadDirect dst src1 => dst.toNat < s.regs.length ∧ src1.toNat < s.dmem.size
  | .loadIndirect dst src1 =>
      dst.toNat < s.regs.length ∧ src1.toNat < s.regs.length ∧ (s.readReg src1).toNat < s.dmem.size
  | .loadImmediate dst _ => dst.toNat < s.regs.length
  | .loadInvalid _ _ _ => False
  | .store dst src1 _ => dst.toNat < s.dmem.size ∧ src1.toNat < s.regs.length
  | .add dst src1 src2 => dst.toNat < s.regs.length ∧ src1.toNat < s.regs.length ∧ src2.toNat < s.regs.length
  | .sub dst src1 src2 => dst.toNat < s.regs.length ∧ src1.toNat < s.regs.length ∧ src2.toNat < s.regs.length
  | .mul dst src1 src2 => dst.toNat < s.regs.length ∧ src1.toNat < s.regs.length ∧ src2.toNat < s.regs.length
  | .div dst src1 src2 => dst.toNat < s.regs.length ∧ src1.toNat < s.regs.length ∧ src2.toNat < s.regs.length
  | .cmp _ _ _ => True
  | .jmp _ target _ => target.toNat < s.prog.length
  | .mov dst src1 _ => dst.toNat < s.regs.length ∧ src1.toNat < s.regs.length
  | .checkFlag _ dst _ => dst.toNat < s.regs.length

/-- Two records that agree but for operands in role X (R66, R71). A LOAD of an invalid mode ignores `src1`. -/
def sameUsedOperands (r r' : Record) : Prop :=
  r.opcode = r'.opcode ∧
    match r.opcode.toNat with
    | 0 => True
    | 1 => r.dst = r'.dst ∧ r.src2 = r'.src2 ∧ (r.src2.toNat < 3 → r.src1 = r'.src1)
    | 2 => r.dst = r'.dst ∧ r.src1 = r'.src1
    | 7 => r.src1 = r'.src1 ∧ r.src2 = r'.src2
    | 8 => r.dst = r'.dst ∧ r.src1 = r'.src1
    | 9 => r.dst = r'.dst ∧ r.src1 = r'.src1
    | 10 => r.dst = r'.dst ∧ r.src1 = r'.src1
    | _ => r = r'

end Sys2Proof.Machine
end

