-- ==== Sys2Proof/Certificates/Slice0/Obligations.lean ====
section
/-! DEFINITION. The statements about the model. Each docstring names the rule of spec/ it formalises. N, M and L are
`s.regs.length`, `s.dmem.size` and `s.prog.length`. Instructions execute on a state whose pc is already advanced. -/

open Sys2Proof Sys2Proof.Machine

/-! ## Encoding and decoding -/

/-- 30_encoding.md R75: each text assembles to its record, the record has the word written out, and the word decodes. The
layout, the tags and the text form are the spec's own choices D1, D2 and D15. -/
def Obligations.WorkedExamplesEncodeAndDecode : Prop :=
  (assemble "LOAD R0,100,0" = some ⟨1#32, 0#32, 100#32, 0#32⟩ ∧
      (⟨1#32, 0#32, 100#32, 0#32⟩ : Record).toWord = 0x00000001000000000000006400000000#128 ∧
      decodeWord 0x00000001000000000000006400000000#128 = .ok (.loadDirect 0#32 100#32)) ∧
    (assemble "LOAD R1,101,0" = some ⟨1#32, 1#32, 101#32, 0#32⟩ ∧
      (⟨1#32, 1#32, 101#32, 0#32⟩ : Record).toWord = 0x00000001000000010000006500000000#128 ∧
      decodeWord 0x00000001000000010000006500000000#128 = .ok (.loadDirect 1#32 101#32)) ∧
    (assemble "ADD R2,R0,R1" = some ⟨3#32, 2#32, 0#32, 1#32⟩ ∧
      (⟨3#32, 2#32, 0#32, 1#32⟩ : Record).toWord = 0x00000003000000020000000000000001#128 ∧
      decodeWord 0x00000003000000020000000000000001#128 = .ok (.add 2#32 0#32 1#32)) ∧
    (assemble "STORE 102,R2,0" = some ⟨2#32, 102#32, 2#32, 0#32⟩ ∧
      (⟨2#32, 102#32, 2#32, 0#32⟩ : Record).toWord = 0x00000002000000660000000200000000#128 ∧
      decodeWord 0x00000002000000660000000200000000#128 = .ok (.store 102#32 2#32 0#32)) ∧
    (assemble "HALT" = some ⟨0#32, 0#32, 0#32, 0#32⟩ ∧
      (⟨0#32, 0#32, 0#32, 0#32⟩ : Record).toWord = 0x00000000000000000000000000000000#128 ∧
      decodeWord 0x00000000000000000000000000000000#128 = .ok (.halt 0#32 0#32 0#32))

/-- 30_encoding.md R62 to R64, R67 to R70 on one written-out word of each kind of instruction that R75 has no word of, and on a
word of tag 11, which decodes to none (95_test_vectors.md DEC4 to DEC18). The layout and the tags are the spec's own choices D1
and D2. That the decoded terms keep ignored operands is the model's choice (log 11). -/
def Obligations.WrittenOutWordsDecode : Prop :=
  decodeWord 0x00000001000000030000000200000001#128 = .ok (.loadIndirect 3#32 2#32) ∧
    decodeWord 0x00000001000000030000006400000002#128 = .ok (.loadImmediate 3#32 100#32) ∧
    decodeWord 0x000000010000000300000064FFFFFFFF#128 = .ok (.loadInvalid 3#32 100#32 0xFFFFFFFF#32) ∧
    decodeWord 0x00000004000000090000000100000000#128 = .ok (.sub 9#32 1#32 0#32) ∧
    decodeWord 0x00000005000000010000000100000002#128 = .ok (.mul 1#32 1#32 2#32) ∧
    decodeWord 0x00000006000000020000000000000001#128 = .ok (.div 2#32 0#32 1#32) ∧
    decodeWord 0x00000007DEADBEEF0000000200000000#128 = .ok (.cmp 0xDEADBEEF#32 2#32 0#32) ∧
    decodeWord 0x00000008000000050000000000000000#128 = .ok (.jmp .always 5#32 0#32) ∧
    decodeWord 0x00000008000000050000000100000000#128 = .ok (.jmp .ifZF 5#32 0#32) ∧
    decodeWord 0x00000008000000050000000200000000#128 = .ok (.jmp (.never 2#32) 5#32 0#32) ∧
    decodeWord 0x00000009000000010000000200000000#128 = .ok (.mov 1#32 2#32 0#32) ∧
    decodeWord 0x0000000A000000020000000000000000#128 = .ok (.checkFlag .zf 2#32 0#32) ∧
    decodeWord 0x0000000A000000020000000100000000#128 = .ok (.checkFlag .cf 2#32 0#32) ∧
    decodeWord 0x0000000A000000020000000200000000#128 = .ok (.checkFlag .nf 2#32 0#32) ∧
    decodeWord 0x0000000A000000020000000300000000#128 = .ok (.checkFlag .of 2#32 0#32) ∧
    decodeWord 0x0000000A000000020000000400000000#128 = .ok (.checkFlag .df 2#32 0#32) ∧
    decodeWord 0x0000000A000000020000000700000000#128 = .ok (.checkFlag (.zero 7#32) 2#32 0#32) ∧
    decodeWord 0x0000000B000000000000000000000000#128 = .error (.illegalTag 11#32)

/-- 30_encoding.md R68: the LOAD mode a `src2` selects, and that any other value is a no-op. -/
def Obligations.LoadModeSelectorIsClosed : Prop :=
  ∀ dst src1 src2 : Word,
    decode ⟨1#32, dst, src1, src2⟩ =
        .ok (if src2 = 0#32 then .loadDirect dst src1
          else if src2 = 1#32 then .loadIndirect dst src1
          else if src2 = 2#32 then .loadImmediate dst src1
          else .loadInvalid dst src1 src2) ∧
      ∀ s : State, 3 ≤ src2.toNat → exec (.loadInvalid dst src1 src2) s = .next s

/-- Decode and encode agree on every well-formed instruction with every operand (R62, R63, R65 to R70). -/
def Obligations.DecodeOfEncodeIsTheInstruction : Prop :=
  ∀ i : Instr, i.wellFormed = true → decodeWord (encodeWord i) = .ok i

/-- The other direction: a word that decodes is the encoding of the well-formed instruction it decodes to, so no bit of
the word is dropped. That the decoded instruction keeps ignored operands is the model's choice (log 11). -/
def Obligations.EncodeOfDecodeIsTheWord : Prop :=
  ∀ (w : BitVec 128) (i : Instr), decodeWord w = .ok i → i.wellFormed = true ∧ encodeWord i = w

/-- 30_encoding.md R74: the decoder gives a word the row the opcode map's masks select, and rejects a word no row selects.
The layout and the tags are the spec's own choices D1 and D2. -/
def Obligations.DecoderAgreesWithOpcodeMap : Prop :=
  ∀ w : BitVec 128,
    (∀ i, decodeWord w = .ok i → (opcodeRow w).map OpcodeRow.mnemonic = some i.mnemonic) ∧
      (∀ e, decodeWord w = .error e → opcodeRow w = none)

/-- 30_encoding.md R64: a tag from 11 up spells no instruction and is refused at the pc; every smaller tag decodes.
That it is refused is the spec's own choice D3 (log 9). -/
def Obligations.TagsOutsideTheCatalogAreRefused : Prop :=
  ∀ (s : State) (r : Record), s.prog[s.pc.toNat]? = some r →
    (11 ≤ r.opcode.toNat →
      decode r = .error (.illegalTag r.opcode) ∧ step s = .refused (.illegalTag r.opcode)) ∧
    (r.opcode.toNat < 11 → ∃ i, decode r = .ok i ∧ i.wellFormed = true)

/-- 30_encoding.md R71 with R66: records that differ in ignored operands alone decode to the same row and execute alike.
That the decoded terms keep those operands is the model's choice (log 11). -/
def Obligations.IgnoredOperandsChangeNothing : Prop :=
  ∀ r r' : Record, sameUsedOperands r r' →
    ∀ i, decode r = .ok i → ∃ i', decode r' = .ok i' ∧ i.mnemonic = i'.mnemonic ∧ ∀ s : State, exec i s = exec i' s

/-! ## Instructions -/

/-- 41_data_transfer.md R110: LOAD mode 0. -/
def Obligations.LoadDirectReadsTheAddressedCell : Prop :=
  ∀ (dst src1 : Word) (s : State),
    decode ⟨1#32, dst, src1, 0#32⟩ = .ok (.loadDirect dst src1) ∧
    (dst.toNat < s.regs.length → src1.toNat < s.dmem.size →
      ∃ t, exec (.loadDirect dst src1) s = .next t ∧ t.readReg dst = s.dmem.read src1.toNat ∧ onlyRegChanges dst s t) ∧
    (¬(dst.toNat < s.regs.length ∧ src1.toNat < s.dmem.size) → exec (.loadDirect dst src1) s = .next s)

/-- 41_data_transfer.md R111: LOAD mode 1. The address is the register's value before the write. -/
def Obligations.LoadIndirectReadsTheCellARegisterNames : Prop :=
  ∀ (dst src1 : Word) (s : State),
    decode ⟨1#32, dst, src1, 1#32⟩ = .ok (.loadIndirect dst src1) ∧
    (dst.toNat < s.regs.length → src1.toNat < s.regs.length → (s.readReg src1).toNat < s.dmem.size →
      ∃ t, exec (.loadIndirect dst src1) s = .next t ∧ t.readReg dst = s.dmem.read (s.readReg src1).toNat ∧
        onlyRegChanges dst s t) ∧
    (¬(dst.toNat < s.regs.length ∧ src1.toNat < s.regs.length ∧ (s.readReg src1).toNat < s.dmem.size) →
      exec (.loadIndirect dst src1) s = .next s)

/-- 41_data_transfer.md R112: LOAD mode 2. The value is not bounds-checked and is stored unchanged. -/
def Obligations.LoadImmediateStoresTheField : Prop :=
  ∀ (dst src1 : Word) (s : State),
    decode ⟨1#32, dst, src1, 2#32⟩ = .ok (.loadImmediate dst src1) ∧
    (dst.toNat < s.regs.length →
      ∃ t, exec (.loadImmediate dst src1) s = .next t ∧ t.readReg dst = src1 ∧ onlyRegChanges dst s t) ∧
    (¬dst.toNat < s.regs.length → exec (.loadImmediate dst src1) s = .next s)

/-- 41_data_transfer.md R113: LOAD with an invalid mode is a `nop` and is not refused. -/
def Obligations.LoadInvalidModeIsNop : Prop :=
  ∀ (dst src1 mode : Word) (s : State), 3 ≤ mode.toNat →
    decode ⟨1#32, dst, src1, mode⟩ = .ok (.loadInvalid dst src1 mode) ∧
      exec (.loadInvalid dst src1 mode) s = .next s

/-- 41_data_transfer.md R115: STORE. The cell stored to is the one the field `dst` names, whatever `src2` is. -/
def Obligations.StoreWritesTheAddressedCell : Prop :=
  ∀ (dst src1 src2 : Word) (s : State),
    decode ⟨2#32, dst, src1, src2⟩ = .ok (.store dst src1 src2) ∧
    (s.dmem.wf → dst.toNat < s.dmem.size → src1.toNat < s.regs.length →
      ∃ t, exec (.store dst src1 src2) s = .next t ∧ t.dmem.read dst.toNat = s.readReg src1 ∧ sameCellsBut dst s t ∧
        sameFixed s t ∧ t.regs = s.regs ∧ t.flags = s.flags ∧ t.pc = s.pc) ∧
    (¬(dst.toNat < s.dmem.size ∧ src1.toNat < s.regs.length) → exec (.store dst src1 src2) s = .next s)

/-- 41_data_transfer.md R117: MOV copies a register, whatever `src2` is. -/
def Obligations.MovCopiesARegister : Prop :=
  ∀ (dst src1 src2 : Word) (s : State),
    decode ⟨9#32, dst, src1, src2⟩ = .ok (.mov dst src1 src2) ∧
    (dst.toNat < s.regs.length → src1.toNat < s.regs.length →
      ∃ t, exec (.mov dst src1 src2) s = .next t ∧ t.readReg dst = s.readReg src1 ∧ onlyRegChanges dst s t) ∧
    (¬(dst.toNat < s.regs.length ∧ src1.toNat < s.regs.length) → exec (.mov dst src1 src2) s = .next s)

/-- 42_arithmetic.md R130: ADD. -/
def Obligations.AddWritesSumAndItsFlags : Prop :=
  ∀ (dst src1 src2 : Word) (s : State),
    decode ⟨3#32, dst, src1, src2⟩ = .ok (.add dst src1 src2) ∧
    (dst.toNat < s.regs.length → src1.toNat < s.regs.length → src2.toNat < s.regs.length →
      ∃ t, exec (.add dst src1 src2) s = .next t ∧
        (t.readReg dst).toNat = ((s.readReg src1).toNat + (s.readReg src2).toNat) % 2 ^ 32 ∧
        (t.flags.cf = true ↔ 2 ^ 32 - 1 < (s.readReg src1).toNat + (s.readReg src2).toNat) ∧
        t.flags.nf = (t.readReg dst).getLsbD 31 ∧ t.flags.of = false ∧
        t.flags.zf = s.flags.zf ∧ t.flags.df = s.flags.df ∧ onlyRegAndFlagsChange dst s t) ∧
    (¬(dst.toNat < s.regs.length ∧ src1.toNat < s.regs.length ∧ src2.toNat < s.regs.length) →
      exec (.add dst src1 src2) s = .next s)

/-- 42_arithmetic.md R132: SUB. -/
def Obligations.SubWritesDifferenceAndItsFlags : Prop :=
  ∀ (dst src1 src2 : Word) (s : State),
    decode ⟨4#32, dst, src1, src2⟩ = .ok (.sub dst src1 src2) ∧
    (dst.toNat < s.regs.length → src1.toNat < s.regs.length → src2.toNat < s.regs.length →
      ∃ t, exec (.sub dst src1 src2) s = .next t ∧
        ((t.readReg dst).toNat : Int) = ((s.readReg src1).toNat - (s.readReg src2).toNat : Int) % 2 ^ 32 ∧
        (t.flags.cf = true ↔ (s.readReg src1).toNat < (s.readReg src2).toNat) ∧
        t.flags.nf = (t.readReg dst).getLsbD 31 ∧ t.flags.of = false ∧
        t.flags.zf = s.flags.zf ∧ t.flags.df = s.flags.df ∧ onlyRegAndFlagsChange dst s t) ∧
    (¬(dst.toNat < s.regs.length ∧ src1.toNat < s.regs.length ∧ src2.toNat < s.regs.length) →
      exec (.sub dst src1 src2) s = .next s)

/-- 42_arithmetic.md R134: MUL. -/
def Obligations.MulWritesProductAndItsFlags : Prop :=
  ∀ (dst src1 src2 : Word) (s : State),
    decode ⟨5#32, dst, src1, src2⟩ = .ok (.mul dst src1 src2) ∧
    (dst.toNat < s.regs.length → src1.toNat < s.regs.length → src2.toNat < s.regs.length →
      ∃ t, exec (.mul dst src1 src2) s = .next t ∧
        (t.readReg dst).toNat = (s.readReg src1).toNat * (s.readReg src2).toNat % 2 ^ 32 ∧
        (t.flags.of = true ↔ 2 ^ 32 - 1 < (s.readReg src1).toNat * (s.readReg src2).toNat) ∧
        t.flags.nf = (t.readReg dst).getLsbD 31 ∧
        t.flags.zf = s.flags.zf ∧ t.flags.cf = s.flags.cf ∧ t.flags.df = s.flags.df ∧
        onlyRegAndFlagsChange dst s t) ∧
    (¬(dst.toNat < s.regs.length ∧ src1.toNat < s.regs.length ∧ src2.toNat < s.regs.length) →
      exec (.mul dst src1 src2) s = .next s)

/-- 42_arithmetic.md R136: DIV. The guards come before the zero test; a zero divisor leaves every register and NF. -/
def Obligations.DivWritesQuotientOrSetsDF : Prop :=
  ∀ (dst src1 src2 : Word) (s : State),
    decode ⟨6#32, dst, src1, src2⟩ = .ok (.div dst src1 src2) ∧
    (dst.toNat < s.regs.length → src1.toNat < s.regs.length → src2.toNat < s.regs.length →
      (s.readReg src2 ≠ 0#32 →
        ∃ t, exec (.div dst src1 src2) s = .next t ∧
          (t.readReg dst).toNat = (s.readReg src1).toNat / (s.readReg src2).toNat ∧
          t.flags.df = false ∧ t.flags.nf = (t.readReg dst).getLsbD 31 ∧ t.flags.of = false ∧ t.flags.cf = false ∧
          t.flags.zf = s.flags.zf ∧ onlyRegAndFlagsChange dst s t) ∧
      (s.readReg src2 = 0#32 →
        ∃ t, exec (.div dst src1 src2) s = .next t ∧
          t.flags.df = true ∧ t.flags.of = false ∧ t.flags.cf = false ∧
          t.flags.nf = s.flags.nf ∧ t.flags.zf = s.flags.zf ∧ onlyFlagsChange s t)) ∧
    (¬(dst.toNat < s.regs.length ∧ src1.toNat < s.regs.length ∧ src2.toNat < s.regs.length) →
      exec (.div dst src1 src2) s = .next s)

/-- 43_compare_flags.md R150: CMP writes ZF alone, and 0 when an index is out of range, whatever `dst` is. -/
def Obligations.CmpWritesZFAlone : Prop :=
  ∀ (dst src1 src2 : Word) (s : State),
    decode ⟨7#32, dst, src1, src2⟩ = .ok (.cmp dst src1 src2) ∧
    ∃ t, exec (.cmp dst src1 src2) s = .next t ∧
      (t.flags.zf = true ↔
        src1.toNat < s.regs.length ∧ src2.toNat < s.regs.length ∧ s.readReg src1 = s.readReg src2) ∧
      t.flags.cf = s.flags.cf ∧ t.flags.nf = s.flags.nf ∧ t.flags.of = s.flags.of ∧ t.flags.df = s.flags.df ∧
      onlyFlagsChange s t

/-- 43_compare_flags.md R152: CHECK_FLAG, by the value of the field `src1`, whatever `src2` is. -/
def Obligations.CheckFlagWritesTheSelectedFlag : Prop :=
  ∀ (dst src1 src2 : Word) (s : State),
    decode ⟨10#32, dst, src1, src2⟩ = .ok (.checkFlag (flagSel src1) dst src2) ∧
    (dst.toNat < s.regs.length →
      ∃ t, exec (.checkFlag (flagSel src1) dst src2) s = .next t ∧ onlyRegChanges dst s t ∧
        (t.readReg dst).toNat =
          if src1.toNat = 0 then s.flags.zf.toNat
          else if src1.toNat = 1 then s.flags.cf.toNat
          else if src1.toNat = 2 then s.flags.nf.toNat
          else if src1.toNat = 3 then s.flags.of.toNat
          else if src1.toNat = 4 then s.flags.df.toNat
          else 0) ∧
    (¬dst.toNat < s.regs.length → exec (.checkFlag (flagSel src1) dst src2) s = .next s)

/-- 44_control.md R160: JMP, by the value of the field `src1`, whatever `src2` is. A target from L up is skipped. -/
def Obligations.JmpSetsPcToAnInBoundsTarget : Prop :=
  ∀ (dst src1 src2 : Word) (s : State),
    decode ⟨8#32, dst, src1, src2⟩ = .ok (.jmp (jmpCond src1) dst src2) ∧
    (dst.toNat < s.prog.length → (src1.toNat = 0 ∨ (src1.toNat = 1 ∧ s.flags.zf = true)) →
      ∃ t, exec (.jmp (jmpCond src1) dst src2) s = .next t ∧ t.pc = dst ∧ onlyPcChanges s t) ∧
    (¬(dst.toNat < s.prog.length ∧ (src1.toNat = 0 ∨ (src1.toNat = 1 ∧ s.flags.zf = true))) →
      exec (.jmp (jmpCond src1) dst src2) s = .next s)

/-- 44_control.md R163: HALT, whatever its operands are. The length bound is the one D5 gives every program. -/
def Obligations.HaltSetsPcToTheProgramLength : Prop :=
  ∀ (dst src1 src2 : Word) (s : State), s.prog.length ≤ Config.maxProgLength →
    decode ⟨0#32, dst, src1, src2⟩ = .ok (.halt dst src1 src2) ∧
    ∃ t, exec (.halt dst src1 src2) s = .next t ∧ t.pc.toNat = s.prog.length ∧ t.halted ∧ onlyPcChanges s t

/-! ## Rules over all instructions -/

/-- 42_arithmetic.md R139: the 64-bit widened sum and product are exact, and their comparison with the 32-bit maximum gives
CF of ADD and OF of MUL. -/
def Obligations.WidenedIntermediatesGiveCarryAndOverflow : Prop :=
  ∀ (dst src1 src2 : Word) (s : State),
    dst.toNat < s.regs.length → src1.toNat < s.regs.length → src2.toNat < s.regs.length →
    (∃ t, exec (.add dst src1 src2) s = .next t ∧
      t.readReg dst = ((s.readReg src1).zeroExtend 64 + (s.readReg src2).zeroExtend 64).truncate 32 ∧
      t.flags.cf = decide (0xFFFFFFFF#64 < (s.readReg src1).zeroExtend 64 + (s.readReg src2).zeroExtend 64)) ∧
    (∃ t, exec (.mul dst src1 src2) s = .next t ∧
      t.readReg dst = ((s.readReg src1).zeroExtend 64 * (s.readReg src2).zeroExtend 64).truncate 32 ∧
      t.flags.of = decide (0xFFFFFFFF#64 < (s.readReg src1).zeroExtend 64 * (s.readReg src2).zeroExtend 64))

/-- 42_arithmetic.md R140: ADD and SUB do not set OF, MUL writes no CF, DIV does not set CF, and none of the four writes
ZF. -/
def Obligations.FlagPartitionIsKept : Prop :=
  ∀ (dst src1 src2 : Word) (s t : State),
    (exec (.add dst src1 src2) s = .next t →
      (t.flags.of = true → s.flags.of = true) ∧ t.flags.zf = s.flags.zf) ∧
    (exec (.sub dst src1 src2) s = .next t →
      (t.flags.of = true → s.flags.of = true) ∧ t.flags.zf = s.flags.zf) ∧
    (exec (.mul dst src1 src2) s = .next t → t.flags.cf = s.flags.cf ∧ t.flags.zf = s.flags.zf) ∧
    (exec (.div dst src1 src2) s = .next t →
      (t.flags.cf = true → s.flags.cf = true) ∧ t.flags.zf = s.flags.zf)

/-- 10_state.md R27: no instruction changes a flag that is not in its row of the ownership table. -/
def Obligations.InstructionsChangeOnlyFlagsTheyOwn : Prop :=
  ∀ (i : Instr) (s t : State), exec i s = .next t →
    ∀ f : FlagSel, f ∉ i.ownedFlags → flagValue f t.flags = flagValue f s.flags

/-- 10_state.md R22: no instruction changes a register other than its destination. -/
def Obligations.OnlyTheDestinationRegisterChanges : Prop :=
  ∀ (i : Instr) (s t : State), exec i s = .next t →
    ∀ k : Nat, (∀ d, i.destReg = some d → k ≠ d.toNat) → t.regs[k]? = s.regs[k]?

/-- 20_memory.md R46: only STORE writes data memory. -/
def Obligations.OnlyStoreWritesDataMemory : Prop :=
  ∀ (i : Instr) (s t : State), i.writesMemory = false → exec i s = .next t → t.dmem = s.dmem

/-- 20_memory.md R46: what an instruction other than LOAD modes 0 and 1 does to registers, flags and pc does not depend on
the contents of data memory. -/
def Obligations.OnlyLoadsDependOnDataMemory : Prop :=
  ∀ (i : Instr) (s : State) (m : Memory), i.readsMemory = false → m.size = s.dmem.size →
    ∃ t t', exec i s = .next t ∧ exec i { s with dmem := m } = .next t' ∧
      t'.regs = t.regs ∧ t'.flags = t.flags ∧ t'.pc = t.pc ∧ t'.prog = t.prog

/-- 60_exceptions.md R170, R171: no operand value stops an instruction. -/
def Obligations.EveryInstructionCompletes : Prop :=
  ∀ (i : Instr) (s : State), ∃ t, exec i s = .next t

/-- 40_execution_cycle.md R97, with R95: the table of guards, and the choice CMP's indices make instead. -/
def Obligations.FailedGuardsMakeANop : Prop :=
  (∀ (i : Instr) (s : State), ¬guardsHold i s → exec i s = .next s) ∧
    (∀ (dst src1 src2 : Word) (s : State), src1.toNat < s.regs.length → src2.toNat < s.regs.length →
      exec (.cmp dst src1 src2) s =
        .next { s with flags := { s.flags with zf := decide (s.readReg src1 = s.readReg src2) } }) ∧
    ∀ (dst src1 src2 : Word) (s : State), ¬(src1.toNat < s.regs.length ∧ src2.toNat < s.regs.length) →
      exec (.cmp dst src1 src2) s = .next { s with flags := { s.flags with zf := false } }

/-! ## The cycle -/

/-- 40_execution_cycle.md R92, R94, R98: when the record at the pc decodes to `i`, the step is `exec i` on the state with the
pc advanced by one. -/
def Obligations.StepRunsTheDecodedInstruction : Prop :=
  ∀ (s : State) (r : Record) (i : Instr), s.prog[s.pc.toNat]? = some r → decode r = .ok i →
    step s = exec i { s with pc := s.pc + 1#32 }

/-- 40_execution_cycle.md R91: from pc >= L there is no step; below L the record fetched is `Prog[pc]`. -/
def Obligations.FetchReadsBelowTheProgramLength : Prop :=
  ∀ s : State,
    (s.prog.length ≤ s.pc.toNat → ∀ t, step s ≠ .next t) ∧
      ∀ h : s.pc.toNat < s.prog.length, s.fetch = some (s.prog[s.pc.toNat]'h)

/-- 40_execution_cycle.md R92: in a state of the invariant, an instruction executes with the pc equal to its index plus
one, and one that is no HALT and no taken JMP leaves it there. -/
def Obligations.PcAdvancesToTheFollowingIndex : Prop :=
  ∀ (s : State) (r : Record) (i : Instr), s.wf → s.prog[s.pc.toNat]? = some r → decode r = .ok i →
    (s.pc + 1#32).toNat = s.pc.toNat + 1 ∧
    step s = exec i { s with pc := s.pc + 1#32 } ∧
    (i.writesPc = false → ∃ t, step s = .next t ∧ t.pc.toNat = s.pc.toNat + 1) ∧
    (∀ cond target src2, i = .jmp cond target src2 →
      ¬(target.toNat < s.prog.length ∧ condHolds cond s.flags = true) →
      ∃ t, step s = .next t ∧ t.pc.toNat = s.pc.toNat + 1)

/-- 20_memory.md R52, 00_scope.md R7: no step changes program memory, L, N, M or P. -/
def Obligations.StepKeepsProgramAndParameters : Prop :=
  ∀ s t : State, step s = .next t → sameFixed s t

/-- 00_scope.md R7, D19: no rule reads the program capacity. Whatever it is, a step (one that stops, too), a run, and every host
operation with its reply, a program load among them, are the same but for the capacity recorded, and construction only records
it. Fuel is log 13. -/
def Obligations.ProgramCapacityIsReadByNoRule : Prop :=
  (∀ (p : Nat) (s : State),
      step (s.withCapacity p) = mapNext (State.withCapacity p) (step s) ∧
      (∀ fuel, run fuel (s.withCapacity p) = (run fuel s).mapState (State.withCapacity p)) ∧
      ∀ op : HostOp, hostStep op (s.withCapacity p) = mapNext (State.withCapacity p) (hostStep op s) ∧
        hostReply op (s.withCapacity p) = hostReply op s) ∧
    ∀ (capacity capacity' size : ℕ+) (init : Nat → Word),
      construct capacity size init = (construct capacity' size init).withCapacity capacity

/-- The invariant of the state (R21, R24, R25, R191; the canonical form of memory is log 2) is kept by every step. -/
def Obligations.StepKeepsTheStateInvariant : Prop :=
  ∀ s t : State, s.wf → step s = .next t → t.wf

/-- The state after reset meets the invariant, and is the state after construction with this hardware's parameters, which
is the model's reading of reset (log 7). -/
def Obligations.ResetIsConstructionAndMeetsTheInvariant : Prop :=
  State.reset = construct Config.progCapacity Config.dmemSize Config.dmemInit ∧ State.reset.wf

/-- 60_exceptions.md R172: with every tag of the program in the catalog, every state a run reaches from `s` is safe: a step
has a next state, or the machine is HALTED. That HALTED is the fault `halted` is the model's choice (log 8). -/
def Obligations.LegalProgramsNeverAbort : Prop :=
  ∀ s : State, s.legalProgram → ∀ (k : Nat) (t : State), stepsTo k s t → t.safe

/-- 60_exceptions.md R170, R172 as a step invariant: that every tag of the program is in the catalog is kept by every step, and
makes the state safe. That HALTED is the fault `halted` is the model's choice (log 8). -/
def Obligations.LegalProgramsStayLegalAndSafe : Prop :=
  ∀ s : State, s.legalProgram → s.safe ∧ ∀ t : State, step s = .next t → t.legalProgram

/-! ## Data memory -/

/-- Equal memories are equal data: canonical memories of one size that agree on every cell are equal. The canonical form
is the model's choice (log 2). -/
def Obligations.CanonicalMemoriesThatAgreeAreEqual : Prop :=
  ∀ m m' : Memory, m.wf → m'.wf → m.size = m'.size → (∀ a, a < m.size → m.read a = m'.read a) → m = m'

/-- 20_memory.md R49, 70_reset_and_hazards.md R201: a LOAD of the cell just stored gives the stored register's value. -/
def Obligations.LoadSeesThePrecedingStore : Prop :=
  ∀ (addr src x dst : Word) (s : State), s.dmem.wf → addr.toNat < s.dmem.size → src.toNat < s.regs.length →
    dst.toNat < s.regs.length →
    ∃ t u, exec (.store addr src x) s = .next t ∧ exec (.loadDirect dst addr) t = .next u ∧
      u.readReg dst = s.readReg src

/-! ## Host operations -/

/-- 70_reset_and_hazards.md R191: the state after construction. The pc, the flags and the empty program are the spec's own
choice D8, and 16 registers its own choice D4 (log 6). -/
def Obligations.ConstructionGivesTheInitialState : Prop :=
  ∀ (capacity size : ℕ+) (init : Nat → Word),
    (construct capacity size init).regs.length = 16 ∧
    (∀ k, k < 16 → (construct capacity size init).regs[k]? = some 0#32) ∧
    (construct capacity size init).dmem.size = size ∧
    (∀ a, a < (size : Nat) → (construct capacity size init).dmem.read a = init a) ∧
    (construct capacity size init).prog = [] ∧ (construct capacity size init).pc = 0#32 ∧
    (construct capacity size init).flags = ⟨false, false, false, false, false⟩ ∧
    (construct capacity size init).progCapacity = capacity ∧ (construct capacity size init).halted

/-- 70_reset_and_hazards.md R192: `loadProgram`, and its refusal of a program that is too long, which is the spec's own
choice D5 (log 9). -/
def Obligations.LoadProgramReplacesProgramAndClears : Prop :=
  ∀ (p : List Record) (s : State),
    (p.length ≤ 2 ^ 32 - 1 →
      ∃ t, loadProgram p s = .next t ∧ t.prog = p ∧ t.pc = 0#32 ∧ t.flags = ⟨false, false, false, false, false⟩ ∧
        t.regs.length = s.regs.length ∧ (∀ k, k < s.regs.length → t.regs[k]? = some 0#32) ∧
        t.dmem = s.dmem ∧ t.progCapacity = s.progCapacity) ∧
    (2 ^ 32 - 1 < p.length → loadProgram p s = .refused .programTooLong)

/-- 70_reset_and_hazards.md R193: `reset`. -/
def Obligations.ResetClearsEngineAndKeepsMemories : Prop :=
  ∀ s : State,
    (resetOp s).pc = 0#32 ∧ (resetOp s).flags = ⟨false, false, false, false, false⟩ ∧
    (resetOp s).regs.length = s.regs.length ∧
    (∀ k, k < s.regs.length → (resetOp s).regs[k]? = some 0#32) ∧
    (resetOp s).prog = s.prog ∧ (resetOp s).dmem = s.dmem ∧ (resetOp s).progCapacity = s.progCapacity

/-- 70_reset_and_hazards.md R194: reset twice is reset once, and reset right after a load changes nothing, which the spec
marks as derived from R192 and R193. -/
def Obligations.ResetIsIdempotent : Prop :=
  ∀ s : State, resetOp (resetOp s) = resetOp s ∧
    ∀ (p : List Record) (t : State), loadProgram p s = .next t → resetOp t = t

/-- 70_reset_and_hazards.md R197: `setMemoryValue`. -/
def Obligations.SetMemoryValueWritesOneCellInBounds : Prop :=
  ∀ (a v : Word) (s : State),
    (s.dmem.wf → a.toNat < s.dmem.size →
      (setMemoryValue a v s).dmem.read a.toNat = v ∧ sameCellsBut a s (setMemoryValue a v s) ∧
      sameFixed s (setMemoryValue a v s) ∧ (setMemoryValue a v s).regs = s.regs ∧
      (setMemoryValue a v s).flags = s.flags ∧ (setMemoryValue a v s).pc = s.pc) ∧
    (s.dmem.size ≤ a.toNat → setMemoryValue a v s = s)

/-- 70_reset_and_hazards.md R198: `getMemoryValue`, and its round trip with `setMemoryValue`. -/
def Obligations.GetMemoryValueReadsInBoundsElseZero : Prop :=
  ∀ (a v : Word) (s : State),
    (a.toNat < s.dmem.size → getMemoryValue a s = s.dmem.read a.toNat) ∧
    (s.dmem.size ≤ a.toNat → getMemoryValue a s = 0#32) ∧
    (s.dmem.wf → a.toNat < s.dmem.size → getMemoryValue a (setMemoryValue a v s) = v)

/-- 70_reset_and_hazards.md R196, R199: what each of the five host operations on a constructed CORE, but for `run`, does and
replies. A load, a reset and a memory write are the operations of R192, R193 and R197 and reply nothing; the two reads change
nothing, and reply the value of R198 and the five flags by value. -/
def Obligations.HostInterfaceActsAndRepliesAsListed : Prop :=
  ∀ s : State,
    (∀ p, hostStep (.loadProgram p) s = loadProgram p s ∧ hostReply (.loadProgram p) s = .nothing) ∧
    (hostStep .reset s = .next (resetOp s) ∧ hostReply .reset s = .nothing) ∧
    (∀ a v, hostStep (.setMemoryValue a v) s = .next (setMemoryValue a v s) ∧
      hostReply (.setMemoryValue a v) s = .nothing) ∧
    (∀ a, hostStep (.getMemoryValue a) s = .next s ∧
      hostReply (.getMemoryValue a) s = .value (if a.toNat < s.dmem.size then s.dmem.read a.toNat else 0#32)) ∧
    (hostStep .getStatusRegister s = .next s ∧
      hostReply .getStatusRegister s = .flags ⟨s.flags.zf, s.flags.cf, s.flags.nf, s.flags.of, s.flags.df⟩)

/-- 70_reset_and_hazards.md R200: writing data cells and loading the program may be swapped. -/
def Obligations.SettingMemoryAndLoadingCommute : Prop :=
  ∀ (p : List Record) (a v : Word) (s : State), p.length ≤ Config.maxProgLength →
    ∃ t, loadProgram p s = .next t ∧ loadProgram p (setMemoryValue a v s) = .next (setMemoryValue a v t)

/-- Every host operation of R196 gives the invariant of the state (R21, R24, R25, R191): construction with any positive sizes, the
five operations of `HostOp` from a state of the invariant, and a run from one, whether it ends, is out of fuel (log 13) or meets
a refused record. The canonical form of memory in the invariant is the model's choice (log 2). -/
def Obligations.HostOperationsKeepTheStateInvariant : Prop :=
  (∀ (op : HostOp) (s t : State), s.wf → hostStep op s = .next t → t.wf) ∧
    (∀ (fuel : Nat) (s : State), s.wf → (run fuel s).state.wf) ∧
    ∀ (capacity size : ℕ+) (init : Nat → Word), (construct capacity size init).wf

/-- 10_state.md R30: HALTED is pc >= L, no step leaves it, and among the host operations only a load or a reset does. After
one of them the machine is READY exactly when L > 0. That HALT ends HALTED is marked in R30 as derived from R163. -/
def Obligations.OnlyLoadAndResetLeaveHalted : Prop :=
  ∀ s : State,
    (s.halted ↔ ¬s.ready) ∧
    (s.halted → ∀ t, step s ≠ .next t) ∧
    (∀ (op : HostOp) (t : State), s.halted → hostStep op s = .next t → t.ready →
      op = .reset ∨ ∃ p, op = .loadProgram p) ∧
    ((resetOp s).ready ↔ 0 < s.prog.length) ∧
    (∀ (p : List Record) (t : State), loadProgram p s = .next t → (t.ready ↔ 0 < p.length)) ∧
    (∀ (dst src1 src2 : Word) (t : State), s.prog.length ≤ Config.maxProgLength →
      exec (.halt dst src1 src2) s = .next t → t.halted)

/-! ## Runs -/

/-- 40_execution_cycle.md R102: a run with fuel ends in `t` exactly when some number of steps within the fuel reaches `t` and
`t` has pc >= L. That a run takes fuel is the model's choice (log 13). -/
def Obligations.RunEndsExactlyAtAHaltedState : Prop :=
  ∀ (fuel : Nat) (s t : State), run fuel s = .ended t ↔ ∃ k, k ≤ fuel ∧ stepsTo k s t ∧ t.halted

/-- 40_execution_cycle.md R100, 70_reset_and_hazards.md R195: a run on a HALTED machine executes nothing, so a second run after
one that ended does nothing. -/
def Obligations.RunOnHaltedExecutesNothing : Prop :=
  (∀ (fuel : Nat) (s : State), s.halted → run fuel s = .ended s) ∧
    ∀ (fuel fuel' : Nat) (s t : State), run fuel s = .ended t → run fuel' t = .ended t

/-- 40_execution_cycle.md R101: fuel only bounds the executor: a run that ends, ends alike with more fuel
(log 13). -/
def Obligations.MoreFuelDoesNotChangeAnEnd : Prop :=
  ∀ (fuel fuel' : Nat) (s t : State), run fuel s = .ended t → fuel ≤ fuel' → run fuel' s = .ended t

/-- 40_execution_cycle.md R101: a run out of fuel can be resumed from where it stands, as if it had had the fuel at
once (log 13). -/
def Obligations.OutOfFuelRunsResume : Prop :=
  ∀ (fuel more : Nat) (s t : State), run fuel s = .outOfFuel t → run (fuel + more) s = run more t

/-- 44_control.md R160, 40_execution_cycle.md R101: a JMP to its own index with `src1 = 0` is an infinite loop, which no fuel
ends (log 13). -/
def Obligations.JumpToItselfRunsForever : Prop :=
  ∀ (s : State) (x : Word), s.prog[s.pc.toNat]? = some ⟨8#32, s.pc, 0#32, x⟩ →
    step s = .next s ∧ ∀ fuel, run fuel s = .outOfFuel s

/-! ## Assembler text -/

/-- 30_encoding.md R80 with R61: text that assembles gives a record of the catalog, which decodes. -/
def Obligations.AssembledRecordsDecode : Prop :=
  ∀ (text : String) (r : Record), assemble text = some r → ∃ i, decode r = .ok i

/-- 30_encoding.md R80: the forms it names, and the two it rejects. -/
def Obligations.AssemblerFormsAreAsListed : Prop :=
  assemble "HALT" = assemble "HALT 0,0,0" ∧
    assemble "CMP 0,R2,R0" = some ⟨7#32, 0#32, 2#32, 0#32⟩ ∧
    assemble "LOAD R5,R0,1" = some ⟨1#32, 5#32, 0#32, 1#32⟩ ∧
    assemble "LOAD R1,1,2" = some ⟨1#32, 1#32, 1#32, 2#32⟩ ∧
    assemble "LOAD R3,0xFF,2" = some ⟨1#32, 3#32, 255#32, 2#32⟩ ∧
    assemble "ADD 2,R0,R1" = none ∧
    assemble "STORE R102,R2,0" = none
end

