-- ==== Sys2Proof/Laws/Decode.lean ====
section
/-! SUPPORT. The word and its record hold the same bits, and the selectors come back from their decodings. -/

namespace Sys2Proof

/-- No bit of a record is lost in its word (30_encoding.md R62). -/
theorem Record.ofWord_toWord (r : Record) : Record.ofWord r.toWord = r := by
  obtain ⟨a, b, c, d⟩ := r
  simp only [Record.ofWord, Record.toWord, Record.mk.injEq]
  refine ⟨?_, ?_, ?_, ?_⟩ <;> ext k hk <;>
    simp only [BitVec.getElem_extractLsb', BitVec.getLsbD_append]
  · rw [if_neg (by omega), if_neg (by omega), if_neg (by omega), show 96 + k - 32 - 32 - 32 = k by omega,
      BitVec.getLsbD_eq_getElem hk]
  · rw [if_neg (by omega), if_neg (by omega), if_pos (by omega), show 64 + k - 32 - 32 = k by omega,
      BitVec.getLsbD_eq_getElem hk]
  · rw [if_neg (by omega), if_pos (by omega), show 32 + k - 32 = k by omega, BitVec.getLsbD_eq_getElem hk]
  · rw [if_pos (by omega), show 0 + k = k by omega, BitVec.getLsbD_eq_getElem hk]

/-- No bit of a word is lost in its record (R62). -/
theorem Record.toWord_ofWord (w : BitVec 128) : (Record.ofWord w).toWord = w := by
  apply BitVec.eq_of_getLsbD_eq
  intro k hk
  simp only [Record.ofWord, Record.toWord, BitVec.getLsbD_append, BitVec.getLsbD_extractLsb']
  by_cases h1 : k < 32
  · simp [h1]
  · by_cases h2 : k - 32 < 32
    · simp [h1, h2, show 32 + (k - 32) = k by omega]
    · by_cases h3 : k - 32 - 32 < 32
      · simp [h1, h2, h3, show 64 + (k - 32 - 32) = k by omega]
      · simp [h1, h2, h3, show k - 32 - 32 - 32 < 32 by omega, show 96 + (k - 32 - 32 - 32) = k by omega]

/-- The LOAD mode of every selector from 3 up is invalid (R68). -/
theorem loadMode_of_ge {m : Word} (h : 3 ≤ m.toNat) : loadMode m = .invalidMode m := by
  unfold loadMode
  split <;> first | omega | rfl

/-- Where a word is not the number `n`, neither is its value. -/
theorem toNat_ne_of_ne {x : Word} {n : Nat} (h : ¬x = BitVec.ofNat 32 n) : x.toNat ≠ n := by
  rintro rfl
  simp at h

/-- The LOAD modes as a chain of comparisons (R68). -/
theorem loadMode_eq (m : Word) :
    loadMode m = if m = 0#32 then .direct else if m = 1#32 then .indirect else if m = 2#32 then .immediate
      else .invalidMode m := by
  split_ifs with h0 h1 h2
  · subst h0; rfl
  · subst h1; rfl
  · subst h2; rfl
  · have := toNat_ne_of_ne h0
    have := toNat_ne_of_ne h1
    have := toNat_ne_of_ne h2
    exact loadMode_of_ge (by omega)

/-- The JMP conditions as a chain of comparisons (R69). -/
theorem jmpCond_eq (m : Word) :
    jmpCond m = if m = 0#32 then .always else if m = 1#32 then .ifZF else .never m := by
  split_ifs with h0 h1
  · subst h0; rfl
  · subst h1; rfl
  · have := toNat_ne_of_ne h0
    have := toNat_ne_of_ne h1
    unfold jmpCond
    split <;> first | omega | rfl

/-- The CHECK_FLAG flags as a chain of comparisons (R70). -/
theorem flagSel_eq (m : Word) :
    flagSel m = if m = 0#32 then .zf else if m = 1#32 then .cf else if m = 2#32 then .nf
      else if m = 3#32 then .of else if m = 4#32 then .df else .zero m := by
  split_ifs with h0 h1 h2 h3 h4
  · subst h0; rfl
  · subst h1; rfl
  · subst h2; rfl
  · subst h3; rfl
  · subst h4; rfl
  · have := toNat_ne_of_ne h0
    have := toNat_ne_of_ne h1
    have := toNat_ne_of_ne h2
    have := toNat_ne_of_ne h3
    have := toNat_ne_of_ne h4
    unfold flagSel
    split <;> first | omega | rfl

/-- A well-formed condition is the decoding of its selector (R69). -/
theorem jmpCond_selector {c : JmpCond} (h : c.wellFormed = true) : jmpCond c.selector = c := by
  cases c with
  | always => rfl
  | ifZF => rfl
  | never x =>
    have hx : 2 ≤ x.toNat := by simpa [JmpCond.wellFormed] using h
    simp only [JmpCond.selector, jmpCond]
    split <;> first | omega | rfl

/-- A well-formed flag is the decoding of its selector (R70). -/
theorem flagSel_selector {f : FlagSel} (h : f.wellFormed = true) : flagSel f.selector = f := by
  cases f with
  | zf => rfl
  | cf => rfl
  | nf => rfl
  | of => rfl
  | df => rfl
  | zero x =>
    have hx : 5 ≤ x.toNat := by simpa [FlagSel.wellFormed] using h
    simp only [FlagSel.selector, flagSel]
    split <;> first | omega | rfl

end Sys2Proof
end

