-- ==== Sys2Proof/Laws/Memory.lean ====
section
/-! SUPPORT. Data memory: a read after a write, and that every memory operation keeps the canonical form. -/

namespace Sys2Proof.Machine

/-- A cell below every listed index is not listed. -/
theorem lookupCell_of_lt {a : Nat} {l : List (Nat × Word)} (h : ∀ c ∈ l, a < c.1) :
    lookupCell a l = Memory.unlisted := by
  induction l with
  | nil => rfl
  | cons c rest ih =>
    obtain ⟨k, w⟩ := c
    have hk : a < k := h (k, w) (by simp)
    rw [lookupCell, if_neg (by omega)]
    exact ih fun c hc => h c (by simp [hc])

/-- The put cell reads the value put. -/
theorem lookupCell_putCell_same (a : Nat) (v : Word) {l : List (Nat × Word)}
    (h : l.Pairwise (fun p q => p.1 < q.1)) : lookupCell a (putCell a v l) = v := by
  induction l with
  | nil => by_cases hv : v = Memory.unlisted <;> simp [putCell, lookupCell, hv]
  | cons c rest ih =>
    obtain ⟨k, w⟩ := c
    rw [List.pairwise_cons] at h
    have hrest : ∀ c ∈ rest, k < c.1 := h.1
    rcases Nat.lt_trichotomy a k with hak | rfl | hka
    · by_cases hv : v = Memory.unlisted
      · rw [putCell, if_pos hak, if_pos hv, hv]
        refine lookupCell_of_lt fun c hc => ?_
        rcases List.mem_cons.1 hc with rfl | hc
        · exact hak
        · exact hak.trans (hrest c hc)
      · simp [putCell, lookupCell, hak, hv]
    · by_cases hv : v = Memory.unlisted
      · simpa [putCell, hv] using lookupCell_of_lt hrest
      · simp [putCell, lookupCell, hv]
    · rw [putCell, if_neg (by omega), if_neg (by omega), lookupCell, if_neg (by omega)]
      exact ih h.2

/-- Every other cell reads as before. -/
theorem lookupCell_putCell_other {a b : Nat} (v : Word) (hab : b ≠ a) {l : List (Nat × Word)}
    (h : l.Pairwise (fun p q => p.1 < q.1)) : lookupCell b (putCell a v l) = lookupCell b l := by
  induction l with
  | nil => by_cases hv : v = Memory.unlisted <;> simp [putCell, lookupCell, hv, Ne.symm hab]
  | cons c rest ih =>
    obtain ⟨k, w⟩ := c
    rw [List.pairwise_cons] at h
    rcases Nat.lt_trichotomy a k with hak | rfl | hka
    · by_cases hv : v = Memory.unlisted <;> simp [putCell, lookupCell, hak, hv, Ne.symm hab]
    · by_cases hv : v = Memory.unlisted <;> simp [putCell, lookupCell, hv, Ne.symm hab]
    · rw [putCell, if_neg (by omega), if_neg (by omega), lookupCell, lookupCell, ih h.2]

/-- An entry of a list after a put is the put entry, which is then one that needs listing, or an entry from before. -/
theorem mem_putCell {a : Nat} {v : Word} {l : List (Nat × Word)} {c : Nat × Word} (h : c ∈ putCell a v l) :
    (c = (a, v) ∧ v ≠ Memory.unlisted) ∨ c ∈ l := by
  induction l with
  | nil => by_cases hv : v = Memory.unlisted <;> simp_all [putCell]
  | cons d rest ih =>
    obtain ⟨k, w⟩ := d
    rcases Nat.lt_trichotomy a k with hak | rfl | hka
    · by_cases hv : v = Memory.unlisted <;> simp_all [putCell]
    · by_cases hv : v = Memory.unlisted
      · simp_all [putCell]
      · simp only [putCell, lt_irrefl, if_false, if_neg hv, if_true, List.mem_cons] at h
        exact h.imp (fun hc => ⟨hc, hv⟩) fun hc => List.mem_cons_of_mem _ hc
    · rw [putCell, if_neg (by omega), if_neg (by omega)] at h
      rcases List.mem_cons.1 h with rfl | h
      · exact .inr (by simp)
      · rcases ih h with hc | hc
        · exact .inl hc
        · exact .inr (by simp [hc])

/-- A put keeps the indices strictly rising. -/
theorem putCell_pairwise (a : Nat) (v : Word) {l : List (Nat × Word)} (h : l.Pairwise (fun p q => p.1 < q.1)) :
    (putCell a v l).Pairwise (fun p q => p.1 < q.1) := by
  induction l with
  | nil => by_cases hv : v = Memory.unlisted <;> simp [putCell, hv]
  | cons c rest ih =>
    obtain ⟨k, w⟩ := c
    have h' := List.pairwise_cons.1 h
    rcases Nat.lt_trichotomy a k with hak | rfl | hka
    · by_cases hv : v = Memory.unlisted
      · simpa [putCell, hak, hv] using h
      · rw [putCell, if_pos hak, if_neg hv]
        refine List.pairwise_cons.2 ⟨fun c hc => ?_, h⟩
        rcases List.mem_cons.1 hc with rfl | hc
        · exact hak
        · exact hak.trans (h'.1 c hc)
    · by_cases hv : v = Memory.unlisted
      · simpa [putCell, hv] using h'.2
      · simpa [putCell, hv] using h'
    · rw [putCell, if_neg (by omega), if_neg (by omega)]
      refine List.pairwise_cons.2 ⟨fun c hc => ?_, ih h'.2⟩
      rcases mem_putCell hc with ⟨rfl, -⟩ | hc
      · exact hka
      · exact h'.1 c hc

@[simp] theorem Memory.write_size (m : Memory) (a : Nat) (v : Word) : (m.write a v).size = m.size := rfl

/-- A read of the written cell gives the value written (20_memory.md R42). -/
theorem Memory.read_write_same {m : Memory} (h : m.wf) (a : Nat) (v : Word) : (m.write a v).read a = v :=
  lookupCell_putCell_same a v h.2.1

/-- A write leaves every other cell alone (R46). -/
theorem Memory.read_write_other {m : Memory} (h : m.wf) {a b : Nat} (hab : b ≠ a) (v : Word) :
    (m.write a v).read b = m.read b :=
  lookupCell_putCell_other v hab h.2.1

/-- A write inside the bounds keeps the canonical form. -/
theorem Memory.write_wf {m : Memory} (h : m.wf) {a : Nat} (ha : a < m.size) (v : Word) : (m.write a v).wf := by
  refine ⟨h.1, putCell_pairwise a v h.2.1, fun c hc => ?_⟩
  rcases mem_putCell hc with ⟨rfl, hv⟩ | hc
  · exact ⟨ha, hv⟩
  · exact h.2.2 c hc

/-- A cell listed by `Memory.ofInit` is one below the size, with its initial value, which needs listing. -/
theorem mem_initCells {init : Nat → Word} {l : List Nat} {c : Nat × Word} (h : c ∈ l.filterMap (initCell init)) :
    c.1 ∈ l ∧ c.2 = init c.1 ∧ init c.1 ≠ Memory.unlisted := by
  obtain ⟨a, ha, hac⟩ := List.mem_filterMap.1 h
  by_cases hi : init a = Memory.unlisted
  · simp [initCell, hi] at hac
  · simp only [initCell, if_neg hi, Option.some.injEq] at hac
    subst hac
    exact ⟨ha, rfl, hi⟩

/-- Memory as constructed is in canonical form. -/
theorem Memory.ofInit_wf {size : Nat} (h : 0 < size) (init : Nat → Word) : (Memory.ofInit size init).wf := by
  refine ⟨h, ?_, fun c hc => ?_⟩
  · have hr : (List.range size).Pairwise (· < ·) := List.pairwise_lt_range
    refine List.Pairwise.filterMap (initCell init) (fun a b hab c hc d hd => ?_) hr
    have hc' := (mem_initCells (init := init) (l := [a]) (c := c) (by simpa using hc)).1
    have hd' := (mem_initCells (init := init) (l := [b]) (c := d) (by simpa using hd)).1
    simp only [List.mem_singleton] at hc' hd'
    omega
  · have hc' := mem_initCells hc
    exact ⟨List.mem_range.1 hc'.1, by rw [hc'.2.1]; exact hc'.2.2⟩

end Sys2Proof.Machine
end

