-- ==== Sys2Proof/Laws/State.lean ====
section
/-! SUPPORT. One lemma per field per state update, and the reads of an updated state that another field decides. -/

namespace Sys2Proof.Machine

@[simp] theorem State.setPc_regs (s : State) (t : Word) : (s.setPc t).regs = s.regs := rfl
@[simp] theorem State.setPc_pc (s : State) (t : Word) : (s.setPc t).pc = t := rfl
@[simp] theorem State.setPc_flags (s : State) (t : Word) : (s.setPc t).flags = s.flags := rfl
@[simp] theorem State.setPc_prog (s : State) (t : Word) : (s.setPc t).prog = s.prog := rfl
@[simp] theorem State.setPc_dmem (s : State) (t : Word) : (s.setPc t).dmem = s.dmem := rfl
@[simp] theorem State.setPc_progCapacity (s : State) (t : Word) : (s.setPc t).progCapacity = s.progCapacity := rfl

@[simp] theorem State.setFlags_regs (s : State) (f : StatusRegister) : (s.setFlags f).regs = s.regs := rfl
@[simp] theorem State.setFlags_pc (s : State) (f : StatusRegister) : (s.setFlags f).pc = s.pc := rfl
@[simp] theorem State.setFlags_flags (s : State) (f : StatusRegister) : (s.setFlags f).flags = f := rfl
@[simp] theorem State.setFlags_prog (s : State) (f : StatusRegister) : (s.setFlags f).prog = s.prog := rfl
@[simp] theorem State.setFlags_dmem (s : State) (f : StatusRegister) : (s.setFlags f).dmem = s.dmem := rfl
@[simp] theorem State.setFlags_progCapacity (s : State) (f : StatusRegister) : (s.setFlags f).progCapacity = s.progCapacity := rfl

@[simp] theorem State.writeReg_regs (s : State) (i v : Word) : (s.writeReg i v).regs = s.regs.set i.toNat v := rfl
@[simp] theorem State.writeReg_pc (s : State) (i v : Word) : (s.writeReg i v).pc = s.pc := rfl
@[simp] theorem State.writeReg_flags (s : State) (i v : Word) : (s.writeReg i v).flags = s.flags := rfl
@[simp] theorem State.writeReg_prog (s : State) (i v : Word) : (s.writeReg i v).prog = s.prog := rfl
@[simp] theorem State.writeReg_dmem (s : State) (i v : Word) : (s.writeReg i v).dmem = s.dmem := rfl
@[simp] theorem State.writeReg_progCapacity (s : State) (i v : Word) : (s.writeReg i v).progCapacity = s.progCapacity := rfl

@[simp] theorem State.memWrite_regs (s : State) (a v : Word) : (s.memWrite a v).regs = s.regs := rfl
@[simp] theorem State.memWrite_pc (s : State) (a v : Word) : (s.memWrite a v).pc = s.pc := rfl
@[simp] theorem State.memWrite_flags (s : State) (a v : Word) : (s.memWrite a v).flags = s.flags := rfl
@[simp] theorem State.memWrite_prog (s : State) (a v : Word) : (s.memWrite a v).prog = s.prog := rfl
@[simp] theorem State.memWrite_dmem (s : State) (a v : Word) : (s.memWrite a v).dmem = s.dmem.write a.toNat v := rfl
@[simp] theorem State.memWrite_progCapacity (s : State) (a v : Word) : (s.memWrite a v).progCapacity = s.progCapacity := rfl

@[simp] theorem State.advance_regs (s : State) : (s.advance).regs = s.regs := rfl
@[simp] theorem State.advance_pc (s : State) : (s.advance).pc = s.pc + 1#32 := rfl
@[simp] theorem State.advance_flags (s : State) : (s.advance).flags = s.flags := rfl
@[simp] theorem State.advance_prog (s : State) : (s.advance).prog = s.prog := rfl
@[simp] theorem State.advance_dmem (s : State) : (s.advance).dmem = s.dmem := rfl
@[simp] theorem State.advance_progCapacity (s : State) : (s.advance).progCapacity = s.progCapacity := rfl

@[simp] theorem State.clearEngine_regs (s : State) : (s.clearEngine).regs = List.replicate s.regs.length 0#32 := rfl
@[simp] theorem State.clearEngine_pc (s : State) : (s.clearEngine).pc = 0#32 := rfl
@[simp] theorem State.clearEngine_flags (s : State) : (s.clearEngine).flags = StatusRegister.clear := rfl
@[simp] theorem State.clearEngine_prog (s : State) : (s.clearEngine).prog = s.prog := rfl
@[simp] theorem State.clearEngine_dmem (s : State) : (s.clearEngine).dmem = s.dmem := rfl
@[simp] theorem State.clearEngine_progCapacity (s : State) : (s.clearEngine).progCapacity = s.progCapacity := rfl

@[simp] theorem State.setPc_readReg (s : State) (t : Word) (k : Word) : (s.setPc t).readReg k = s.readReg k := rfl
@[simp] theorem State.setPc_memRead (s : State) (t : Word) (k : Word) : (s.setPc t).memRead k = s.memRead k := rfl
@[simp] theorem State.setFlags_readReg (s : State) (f : StatusRegister) (k : Word) : (s.setFlags f).readReg k = s.readReg k := rfl
@[simp] theorem State.setFlags_memRead (s : State) (f : StatusRegister) (k : Word) : (s.setFlags f).memRead k = s.memRead k := rfl
@[simp] theorem State.writeReg_memRead (s : State) (i v : Word) (k : Word) : (s.writeReg i v).memRead k = s.memRead k := rfl
@[simp] theorem State.memWrite_readReg (s : State) (a v : Word) (k : Word) : (s.memWrite a v).readReg k = s.readReg k := rfl

end Sys2Proof.Machine
end

