-- ==== Sys2Proof/Laws/Ops.lean ====
section
/-! SUPPORT. What each shared operation can do, said once. -/

namespace Sys2Proof.Machine

theorem State.hasReg_iff (s : State) (i : Word) : s.hasReg i = true ↔ i.toNat < s.regs.length := by
  simp [State.hasReg]

theorem State.hasCell_iff (s : State) (a : Word) : s.hasCell a = true ↔ a.toNat < s.dmem.size := by
  simp [State.hasCell]

theorem State.hasTarget_iff (s : State) (t : Word) : s.hasTarget t = true ↔ t.toNat < s.prog.length := by
  simp [State.hasTarget]

theorem State.hasRegs3_iff (s : State) (dst src1 src2 : Word) :
    s.hasRegs3 dst src1 src2 = true ↔
      dst.toNat < s.regs.length ∧ src1.toNat < s.regs.length ∧ src2.toNat < s.regs.length := by
  simp [State.hasRegs3, State.hasReg, and_assoc]

/-- A register reads what was last written to it (10_state.md R21). -/
theorem State.readReg_writeReg_same {s : State} {i : Word} (h : i.toNat < s.regs.length) (v : Word) :
    (s.writeReg i v).readReg i = v := by
  simp [State.readReg, State.writeReg, h]

/-- Every other register reads as before. -/
theorem State.readReg_writeReg_other {s : State} {i j : Word} (h : j ≠ i) (v : Word) :
    (s.writeReg i v).readReg j = s.readReg j := by
  have h' : i.toNat ≠ j.toNat := fun e => h (BitVec.eq_of_toNat_eq e.symm)
  simp [State.readReg, State.writeReg, List.getD_eq_getElem?_getD, List.getElem?_set_ne h']

/-- Every other entry of the register file is as before. -/
theorem State.writeReg_getElem?_other (s : State) {i : Word} {k : Nat} (h : k ≠ i.toNat) (v : Word) :
    (s.writeReg i v).regs[k]? = s.regs[k]? := by
  simp [List.getElem?_set_ne (Ne.symm h)]

/-- Where its guards hold, a guarded instruction has its effect. -/
theorem guarded_pass {g : Bool} (h : g = true) (effect : State → State) (s : State) :
    guarded g effect s = .next (effect s) := by
  simp [guarded, h]

/-- Where a guard fails, a guarded instruction is a `nop` (40_execution_cycle.md R95). -/
theorem guarded_fail {g : Bool} (h : ¬g = true) (effect : State → State) (s : State) :
    guarded g effect s = .next s := by
  simp [guarded, h]

/-- All a guarded instruction can do. -/
theorem guarded_next {g : Bool} {effect : State → State} {s t : State} (h : guarded g effect s = .next t) :
    (g = true ∧ t = effect s) ∨ (¬g = true ∧ t = s) := by
  by_cases hg : g = true
  · rw [guarded_pass hg] at h
    exact .inl ⟨hg, (Host.Outcome.next.inj h).symm⟩
  · rw [guarded_fail hg] at h
    exact .inr ⟨hg, (Host.Outcome.next.inj h).symm⟩

/-- All ADD, SUB and MUL can do. -/
theorem arith_next {result : Word → Word → Word} {flags : Word → Word → StatusRegister → StatusRegister}
    {dst src1 src2 : Word} {s t : State} (h : arith result flags dst src1 src2 s = .next t) :
    (s.hasRegs3 dst src1 src2 = true ∧
        t = (s.writeReg dst (result (s.readReg src1) (s.readReg src2))).setFlags
          (flags (s.readReg src1) (s.readReg src2) s.flags)) ∨
      (¬s.hasRegs3 dst src1 src2 = true ∧ t = s) :=
  guarded_next h

/-- All the effect of DIV can be: a zero divisor writes flags alone. -/
theorem divEffect_cases (dst src1 src2 : Word) (s : State) :
    (s.readReg src2 = 0#32 ∧ divEffect dst src1 src2 s = s.setFlags (divByZeroFlags s.flags)) ∨
      (s.readReg src2 ≠ 0#32 ∧
        divEffect dst src1 src2 s = (s.writeReg dst (divResult (s.readReg src1) (s.readReg src2))).setFlags
          (divFlags (s.readReg src1) (s.readReg src2) s.flags)) := by
  by_cases h : s.readReg src2 = 0#32
  · exact .inl ⟨h, if_pos h⟩
  · exact .inr ⟨h, if_neg h⟩

theorem addResult_toNat (a b : Word) : (addResult a b).toNat = (a.toNat + b.toNat) % 2 ^ 32 := by
  simp [addResult]

theorem mulResult_toNat (a b : Word) : (mulResult a b).toNat = a.toNat * b.toNat % 2 ^ 32 := by
  simp [mulResult]

theorem divResult_toNat (a b : Word) : (divResult a b).toNat = a.toNat / b.toNat := by
  have h : a.toNat / b.toNat ≤ a.toNat := Nat.div_le_self _ _
  have ha := a.isLt
  simp only [divResult, BitVec.toNat_ofNat]
  exact Nat.mod_eq_of_lt (by omega)

theorem subResult_toNat (a b : Word) :
    ((subResult a b).toNat : Int) = ((a.toNat : Int) - (b.toNat : Int)) % 2 ^ 32 := by
  simp only [subResult, BitVec.toNat_ofInt]
  rw [Int.toNat_of_nonneg (Int.emod_nonneg _ (by decide))]
  rfl

end Sys2Proof.Machine
end

