-- ==== Sys2Proof/Laws/Step.lean ====
section
/-! SUPPORT. All a step can do, said once, and that `withFetchWord` stores where the step fetches. -/

namespace Sys2Proof.Machine

/-- A HALTED machine fetches nothing (10_state.md R30, 40_execution_cycle.md R91). -/
theorem State.fetch_eq_none_iff (s : State) : s.fetch = none ↔ s.halted := by
  simp [State.fetch, State.halted]

/-- A READY machine fetches the record at its pc (R91). -/
theorem State.fetch_eq_some_iff (s : State) (r : Record) :
    s.fetch = some r ↔ ∃ h : s.ready, s.prog[s.pc.toNat]'h = r := by
  simp [State.fetch, State.ready, List.getElem?_eq_some_iff]

/-- A step with a next state has executed the decoded instruction at the pc. -/
theorem step_next {s t : State} (h : step s = .next t) :
    ∃ r i, s.fetch = some r ∧ decode r = .ok i ∧ exec i s.advance = .next t := by
  unfold step at h
  split at h
  · cases h
  · next r hr =>
    split at h
    · cases h
    · next i hi => exact ⟨r, i, hr, hi, h⟩

/-- The effect of a DIV is a next state in which flags and at most one register have changed. -/
theorem execDiv_next {dst src1 src2 : Word} {s t : State} (h : execDiv dst src1 src2 s = .next t) :
    (s.hasRegs3 dst src1 src2 = true ∧ t = divEffect dst src1 src2 s) ∨
      (¬s.hasRegs3 dst src1 src2 = true ∧ t = s) :=
  guarded_next h

/-- Where the placed record goes is where the index reads. -/
theorem placeRecord_getElem? (prog : List Record) (k : Nat) (r : Record) : (placeRecord prog k r)[k]? = some r := by
  have hlen : (prog.take k ++ List.replicate (k - prog.length) (⟨0#32, 0#32, 0#32, 0#32⟩ : Record)).length = k := by
    simp only [List.length_append, List.length_take, List.length_replicate]
    omega
  rw [placeRecord, List.getElem?_append_right (by omega), hlen]
  simp

/-- `withFetchWord` stores the word's record where the next step fetches. -/
theorem State.withFetchWord_fetch (s : State) (nbits w : Nat) :
    (s.withFetchWord nbits w).fetch = some (Record.ofWord (tableWord nbits w)) :=
  placeRecord_getElem? _ _ _

end Sys2Proof.Machine
end

