-- ==== Sys2Proof/Laws/Exec.lean ====
section
/-! SUPPORT. What `exec` is at each instruction, over the shared operations, and all it can do, said once. -/

namespace Sys2Proof.Machine

theorem exec_halt_eq (dst src1 src2 : Word) (s : State) :
    exec (.halt dst src1 src2) s = .next (s.setPc s.programEnd) := rfl

theorem exec_loadDirect_eq (dst src1 : Word) (s : State) :
    exec (.loadDirect dst src1) s =
      guarded (s.hasReg dst && s.hasCell src1) (fun s => s.writeReg dst (s.memRead src1)) s := rfl

theorem exec_loadIndirect_eq (dst src1 : Word) (s : State) :
    exec (.loadIndirect dst src1) s =
      guarded (s.hasReg dst && s.hasReg src1 && s.hasCell (s.readReg src1))
        (fun s => s.writeReg dst (s.memRead (s.readReg src1))) s := rfl

theorem exec_loadImmediate_eq (dst src1 : Word) (s : State) :
    exec (.loadImmediate dst src1) s = guarded (s.hasReg dst) (fun s => s.writeReg dst src1) s := rfl

theorem exec_loadInvalid_eq (dst src1 mode : Word) (s : State) : exec (.loadInvalid dst src1 mode) s = .next s := rfl

theorem exec_store_eq (dst src1 src2 : Word) (s : State) :
    exec (.store dst src1 src2) s =
      guarded (s.hasCell dst && s.hasReg src1) (fun s => s.memWrite dst (s.readReg src1)) s := rfl

theorem exec_add_eq (dst src1 src2 : Word) (s : State) :
    exec (.add dst src1 src2) s = arith addResult addFlags dst src1 src2 s := rfl

theorem exec_sub_eq (dst src1 src2 : Word) (s : State) :
    exec (.sub dst src1 src2) s = arith subResult subFlags dst src1 src2 s := rfl

theorem exec_mul_eq (dst src1 src2 : Word) (s : State) :
    exec (.mul dst src1 src2) s = arith mulResult mulFlags dst src1 src2 s := rfl

theorem exec_div_eq (dst src1 src2 : Word) (s : State) :
    exec (.div dst src1 src2) s = guarded (s.hasRegs3 dst src1 src2) (divEffect dst src1 src2) s := rfl

theorem exec_cmp_eq (dst src1 src2 : Word) (s : State) :
    exec (.cmp dst src1 src2) s = .next (s.setFlags
      (cmpFlags (s.hasReg src1 && s.hasReg src2 && decide (s.readReg src1 = s.readReg src2)) s.flags)) := rfl

theorem exec_jmp_eq (cond : JmpCond) (target src2 : Word) (s : State) :
    exec (.jmp cond target src2) s =
      guarded (s.hasTarget target && condHolds cond s.flags) (fun s => s.setPc target) s := rfl

theorem exec_mov_eq (dst src1 src2 : Word) (s : State) :
    exec (.mov dst src1 src2) s =
      guarded (s.hasReg dst && s.hasReg src1) (fun s => s.writeReg dst (s.readReg src1)) s := rfl

theorem exec_checkFlag_eq (flag : FlagSel) (dst src2 : Word) (s : State) :
    exec (.checkFlag flag dst src2) s =
      guarded (s.hasReg dst) (fun s => s.writeReg dst (zextBit (flagValue flag s.flags))) s := rfl

/-- Where the guards of ADD, SUB or MUL hold, the result and the flags are written. -/
theorem arith_pass {dst src1 src2 : Word} {s : State} (h : s.hasRegs3 dst src1 src2 = true)
    (result : Word → Word → Word) (flags : Word → Word → StatusRegister → StatusRegister) :
    arith result flags dst src1 src2 s =
      .next ((s.writeReg dst (result (s.readReg src1) (s.readReg src2))).setFlags
        (flags (s.readReg src1) (s.readReg src2) s.flags)) :=
  guarded_pass h _ _

/-- Where a guard of ADD, SUB or MUL fails, nothing changes. -/
theorem arith_fail {dst src1 src2 : Word} {s : State} (h : ¬s.hasRegs3 dst src1 src2 = true)
    (result : Word → Word → Word) (flags : Word → Word → StatusRegister → StatusRegister) :
    arith result flags dst src1 src2 s = .next s :=
  guarded_fail h _ _

/-- A flag update leaves every flag outside `owned` as it was. -/
def keepsFlagsBut (owned : List FlagSel) (f g : StatusRegister) : Prop :=
  ∀ sel, sel ∉ owned → flagValue sel g = flagValue sel f

theorem keepsFlagsBut_refl (owned : List FlagSel) (f : StatusRegister) : keepsFlagsBut owned f f := fun _ _ => rfl

theorem addFlags_keeps (a b : Word) (f : StatusRegister) : keepsFlagsBut [.cf, .nf, .of] f (addFlags a b f) := by
  intro sel h; cases sel <;> first | rfl | simp at h

theorem subFlags_keeps (a b : Word) (f : StatusRegister) : keepsFlagsBut [.cf, .nf, .of] f (subFlags a b f) := by
  intro sel h; cases sel <;> first | rfl | simp at h

theorem mulFlags_keeps (a b : Word) (f : StatusRegister) : keepsFlagsBut [.nf, .of] f (mulFlags a b f) := by
  intro sel h; cases sel <;> first | rfl | simp at h

theorem divFlags_keeps (a b : Word) (f : StatusRegister) : keepsFlagsBut [.cf, .nf, .of, .df] f (divFlags a b f) := by
  intro sel h; cases sel <;> first | rfl | simp at h

theorem divByZeroFlags_keeps (f : StatusRegister) : keepsFlagsBut [.cf, .nf, .of, .df] f (divByZeroFlags f) := by
  intro sel h; cases sel <;> first | rfl | simp at h

theorem cmpFlags_keeps (e : Bool) (f : StatusRegister) : keepsFlagsBut [.zf] f (cmpFlags e f) := by
  intro sel h; cases sel <;> first | rfl | simp at h

/-- All the updates an instruction can make to the state it executes on. -/
inductive Update (i : Instr) (s : State) : State → Prop where
  /-- Nothing changes: a `nop`. -/
  | none : Update i s s
  /-- The destination register and flags the instruction owns. -/
  | reg (d v : Word) (f : StatusRegister) (hd : i.destReg = some d) (hf : keepsFlagsBut i.ownedFlags s.flags f)
      (hp : i.writesPc = false) (hm : i.writesMemory = false) : Update i s ((s.writeReg d v).setFlags f)
  /-- Flags the instruction owns. -/
  | flags (f : StatusRegister) (hf : keepsFlagsBut i.ownedFlags s.flags f) (hp : i.writesPc = false)
      (hm : i.writesMemory = false) : Update i s (s.setFlags f)
  /-- One cell inside data memory: a STORE. -/
  | cell (a v : Word) (ha : a.toNat < s.dmem.size) (hm : i.writesMemory = true) (hp : i.writesPc = false) :
      Update i s (s.memWrite a v)
  /-- The pc, to a target below L: a taken JMP. -/
  | jump (cond : JmpCond) (target src2 : Word) (hi : i = .jmp cond target src2) (ht : target.toNat < s.prog.length)
      (hc : condHolds cond s.flags = true) (hm : i.writesMemory = false) : Update i s (s.setPc target)
  /-- The pc, to L: a HALT. -/
  | stop (dst src1 src2 : Word) (hi : i = .halt dst src1 src2) (hm : i.writesMemory = false) :
      Update i s (s.setPc s.programEnd)

/-- A guarded instruction whose effect is an update makes an update. -/
theorem Update.of_guarded {i : Instr} {g : Bool} {effect : State → State} {s t : State}
    (h : guarded g effect s = .next t) (hu : g = true → Update i s (effect s)) : Update i s t := by
  rcases guarded_next h with ⟨hg, rfl⟩ | ⟨-, rfl⟩
  · exact hu hg
  · exact .none

/-- Writing a register alone is an update of the destination. -/
theorem Update.of_writeReg {i : Instr} {s : State} {d v : Word} (hd : i.destReg = some d) (hp : i.writesPc = false)
    (hm : i.writesMemory = false) : Update i s (s.writeReg d v) :=
  .reg d v s.flags hd (keepsFlagsBut_refl _ _) hp hm

/-- All `exec` can do: every next state is one update of the state it executes on. -/
theorem exec_next {i : Instr} {s t : State} (h : exec i s = .next t) : Update i s t := by
  cases i with
  | halt dst src1 src2 =>
    obtain rfl := Host.Outcome.next.inj h
    exact .stop dst src1 src2 rfl rfl
  | loadDirect dst src1 =>
    rw [exec_loadDirect_eq] at h
    exact .of_guarded h fun _ => .of_writeReg rfl rfl rfl
  | loadIndirect dst src1 =>
    rw [exec_loadIndirect_eq] at h
    exact .of_guarded h fun _ => .of_writeReg rfl rfl rfl
  | loadImmediate dst src1 =>
    rw [exec_loadImmediate_eq] at h
    exact .of_guarded h fun _ => .of_writeReg rfl rfl rfl
  | loadInvalid dst src1 mode =>
    obtain rfl := Host.Outcome.next.inj h
    exact .none
  | store dst src1 src2 =>
    rw [exec_store_eq] at h
    refine .of_guarded h fun hg => .cell dst _ ?_ rfl rfl
    rw [Bool.and_eq_true, State.hasCell_iff] at hg
    exact hg.1
  | add dst src1 src2 =>
    rw [exec_add_eq, arith] at h
    exact .of_guarded h fun _ => .reg dst _ _ rfl (addFlags_keeps _ _ _) rfl rfl
  | sub dst src1 src2 =>
    rw [exec_sub_eq, arith] at h
    exact .of_guarded h fun _ => .reg dst _ _ rfl (subFlags_keeps _ _ _) rfl rfl
  | mul dst src1 src2 =>
    rw [exec_mul_eq, arith] at h
    exact .of_guarded h fun _ => .reg dst _ _ rfl (mulFlags_keeps _ _ _) rfl rfl
  | div dst src1 src2 =>
    rw [exec_div_eq] at h
    refine .of_guarded h fun _ => ?_
    rcases divEffect_cases dst src1 src2 s with ⟨-, e⟩ | ⟨-, e⟩
    · exact e ▸ .flags _ (divByZeroFlags_keeps _) rfl rfl
    · exact e ▸ .reg dst _ _ rfl (divFlags_keeps _ _ _) rfl rfl
  | cmp dst src1 src2 =>
    obtain rfl := Host.Outcome.next.inj h
    exact .flags _ (cmpFlags_keeps _ _) rfl rfl
  | jmp cond target src2 =>
    rw [exec_jmp_eq] at h
    refine .of_guarded h fun hg => ?_
    rw [Bool.and_eq_true, State.hasTarget_iff] at hg
    exact .jump cond target src2 rfl hg.1 hg.2 rfl
  | mov dst src1 src2 =>
    rw [exec_mov_eq] at h
    exact .of_guarded h fun _ => .of_writeReg rfl rfl rfl
  | checkFlag flag dst src2 =>
    rw [exec_checkFlag_eq] at h
    exact .of_guarded h fun _ => .of_writeReg rfl rfl rfl

end Sys2Proof.Machine
end

