-- ==== Sys2Proof/Laws/Host.lean ====
section
/-! SUPPORT. All a host operation and a run can do, said once, and the small lemmas of the terms claims about them use. -/

namespace Sys2Proof.Machine

@[simp] theorem State.withCapacity_regs (p : Nat) (s : State) : (s.withCapacity p).regs = s.regs := rfl
@[simp] theorem State.withCapacity_pc (p : Nat) (s : State) : (s.withCapacity p).pc = s.pc := rfl
@[simp] theorem State.withCapacity_flags (p : Nat) (s : State) : (s.withCapacity p).flags = s.flags := rfl
@[simp] theorem State.withCapacity_prog (p : Nat) (s : State) : (s.withCapacity p).prog = s.prog := rfl
@[simp] theorem State.withCapacity_dmem (p : Nat) (s : State) : (s.withCapacity p).dmem = s.dmem := rfl
@[simp] theorem State.withCapacity_progCapacity (p : Nat) (s : State) : (s.withCapacity p).progCapacity = p := rfl

@[simp] theorem mapNext_next (f : State → State) (s : State) : mapNext f (.next s) = .next (f s) := rfl
@[simp] theorem mapNext_fault (f : State → State) (r : Fault) : mapNext f (.fault r) = .fault r := rfl
@[simp] theorem mapNext_refused (f : State → State) (r : Refusal) : mapNext f (.refused r) = .refused r := rfl

@[simp] theorem RunResult.state_ended (s : State) : (RunResult.ended s).state = s := rfl
@[simp] theorem RunResult.state_outOfFuel (s : State) : (RunResult.outOfFuel s).state = s := rfl
@[simp] theorem RunResult.state_refused (s : State) (r : Refusal) : (RunResult.refused s r).state = s := rfl

@[simp] theorem RunResult.mapState_ended (f : State → State) (s : State) :
    (RunResult.ended s).mapState f = .ended (f s) := rfl
@[simp] theorem RunResult.mapState_outOfFuel (f : State → State) (s : State) :
    (RunResult.outOfFuel s).mapState f = .outOfFuel (f s) := rfl
@[simp] theorem RunResult.mapState_refused (f : State → State) (s : State) (r : Refusal) :
    (RunResult.refused s r).mapState f = .refused (f s) r := rfl

/-- A run whose first step is HALTED has ended (40_execution_cycle.md R91, R102). -/
theorem run_of_halted {s : State} (fuel : Nat) (h : step s = .fault .halted) : run fuel s = .ended s := by
  cases fuel <;> simp only [run, h]

/-- A run whose first step is refused stands marked refused, which is no end (R93, R102). -/
theorem run_of_refused {s : State} {r : Refusal} (fuel : Nat) (h : step s = .refused r) : run fuel s = .refused s r := by
  cases fuel <;> simp only [run, h]

/-- A run with a step to take and no fuel for it is out of fuel (R101). -/
theorem run_zero_of_next {s t : State} (h : step s = .next t) : run 0 s = .outOfFuel s := by
  simp only [run, h]

/-- A run with a step to take and fuel for it goes on from the next state (R100). -/
theorem run_succ_of_next {s t : State} (n : Nat) (h : step s = .next t) : run (n + 1) s = run n t := by
  rw [run, h]

/-- A load with a result has a program that fits, and replaces the program and clears the engine
(70_reset_and_hazards.md R192). -/
theorem loadProgram_next {p : List Record} {s t : State} (h : loadProgram p s = .next t) :
    p.length ≤ Config.maxProgLength ∧ t = ({ s with prog := p } : State).clearEngine := by
  unfold loadProgram at h
  split at h
  · next hp => exact ⟨hp, (Host.Outcome.next.inj h).symm⟩
  · cases h

/-- All that a host operation with a result does (R196). -/
theorem hostStep_next {op : HostOp} {s t : State} (h : hostStep op s = .next t) :
    (∃ p, op = .loadProgram p ∧ p.length ≤ Config.maxProgLength ∧ t = ({ s with prog := p } : State).clearEngine) ∨
      (op = .reset ∧ t = s.clearEngine) ∨
      (∃ a v, op = .setMemoryValue a v ∧ s.hasCell a = true ∧ t = s.memWrite a v) ∨
      ((∀ p, op ≠ .loadProgram p) ∧ op ≠ .reset ∧ t = s) := by
  cases op with
  | loadProgram p => exact .inl ⟨p, rfl, loadProgram_next h⟩
  | reset => exact .inr (.inl ⟨rfl, (Host.Outcome.next.inj h).symm⟩)
  | setMemoryValue a v =>
    have ht : t = setMemoryValue a v s := (Host.Outcome.next.inj h).symm
    unfold setMemoryValue at ht
    split at ht
    · next hc => exact .inr (.inr (.inl ⟨a, v, rfl, hc, ht⟩))
    · exact .inr (.inr (.inr ⟨by simp, by simp, ht⟩))
  | getMemoryValue a => exact .inr (.inr (.inr ⟨by simp, by simp, (Host.Outcome.next.inj h).symm⟩))
  | getStatusRegister => exact .inr (.inr (.inr ⟨by simp, by simp, (Host.Outcome.next.inj h).symm⟩))

end Sys2Proof.Machine
end

