-- ==== Sys2Proof/Laws/PerInstr.lean ====
section
/-! SUPPORT. Statements about every instruction as syntax, one lemma per constructor. -/

namespace Sys2Proof.Laws

/-- The record of a well-formed instruction decodes to it (30_encoding.md R60, R66, R67). -/
def RecordRoundTrip.Statement (i : Instr) : Prop :=
  i.wellFormed = true → decode (encode i) = .ok i

theorem RecordRoundTrip.halt (dst src1 src2 : Word) :
    RecordRoundTrip.Statement (.halt dst src1 src2) := fun _ => rfl

theorem RecordRoundTrip.loadDirect (dst src1 : Word) :
    RecordRoundTrip.Statement (.loadDirect dst src1) := fun _ => rfl

theorem RecordRoundTrip.loadIndirect (dst src1 : Word) :
    RecordRoundTrip.Statement (.loadIndirect dst src1) := fun _ => rfl

theorem RecordRoundTrip.loadImmediate (dst src1 : Word) :
    RecordRoundTrip.Statement (.loadImmediate dst src1) := fun _ => rfl

theorem RecordRoundTrip.loadInvalid (dst src1 mode : Word) :
    RecordRoundTrip.Statement (.loadInvalid dst src1 mode) := by
  intro h
  have hm : 3 ≤ mode.toNat := by simpa [Instr.wellFormed] using h
  simp [decode, encode, loadMode_of_ge hm, decodeLoad]

theorem RecordRoundTrip.store (dst src1 src2 : Word) :
    RecordRoundTrip.Statement (.store dst src1 src2) := fun _ => rfl

theorem RecordRoundTrip.add (dst src1 src2 : Word) :
    RecordRoundTrip.Statement (.add dst src1 src2) := fun _ => rfl

theorem RecordRoundTrip.sub (dst src1 src2 : Word) :
    RecordRoundTrip.Statement (.sub dst src1 src2) := fun _ => rfl

theorem RecordRoundTrip.mul (dst src1 src2 : Word) :
    RecordRoundTrip.Statement (.mul dst src1 src2) := fun _ => rfl

theorem RecordRoundTrip.div (dst src1 src2 : Word) :
    RecordRoundTrip.Statement (.div dst src1 src2) := fun _ => rfl

theorem RecordRoundTrip.cmp (dst src1 src2 : Word) :
    RecordRoundTrip.Statement (.cmp dst src1 src2) := fun _ => rfl

theorem RecordRoundTrip.jmp (cond : JmpCond) (target src2 : Word) :
    RecordRoundTrip.Statement (.jmp cond target src2) := by
  intro h
  simp [decode, encode, jmpCond_selector (show cond.wellFormed = true from h)]

theorem RecordRoundTrip.mov (dst src1 src2 : Word) :
    RecordRoundTrip.Statement (.mov dst src1 src2) := fun _ => rfl

theorem RecordRoundTrip.checkFlag (flag : FlagSel) (dst src2 : Word) :
    RecordRoundTrip.Statement (.checkFlag flag dst src2) := by
  intro h
  simp [decode, encode, flagSel_selector (show flag.wellFormed = true from h)]

end Sys2Proof.Laws
end

