-- ==== Sys2Proof/Tests/Slice0.lean ====
section
/-! SUPPORT. Tests on single steps and witnesses that the statements' hypotheses can be met. Expected results are the
spec's: the words of 30_encoding.md R62 to R75 and the vectors of 95_test_vectors.md, named in the comments. -/

namespace Sys2Proof.Tests

open Sys2Proof.Machine

/-- Sixteen registers, the first four given. -/
def regs4 (a b c d : Word) : List Word := [a, b, c, d] ++ List.replicate 12 0#32

/-- The five flags in the vectors' order ZCNOD. -/
def zcnod (z c n o d : Bool) : StatusRegister := ⟨z, c, n, o, d⟩

/-- The vectors' convention: N = 16, M = 1024, a program of length 11 of HALT records, pc = 9. -/
def machine (regs : List Word) (flags : StatusRegister) : State where
  regs := regs
  pc := 9#32
  flags := flags
  prog := List.replicate 11 ⟨0#32, 0#32, 0#32, 0#32⟩
  dmem := ⟨1024, [(0, 3#32), (100, 5#32), (300, 10#32), (1023, 77#32)]⟩
  progCapacity := 64

/-- A machine with small registers and flags `10101`. -/
def demo : State := machine (regs4 9#32 300#32 12#32 0xDEAD#32) (zcnod true false true false true)

/-- The next state, if there is one. -/
def next? : Host.Outcome State Fault Refusal → Option State
  | .next s => some s
  | .fault _ => none
  | .refused _ => none

/-- One register and the flags after an instruction. -/
def regAndFlags (r : Word) (o : Host.Outcome State Fault Refusal) : Option (Word × StatusRegister) :=
  (next? o).map fun t => (t.readReg r, t.flags)

/-! ## Well-formedness -/

theorem test_loadInvalid_mode2_refused : (Instr.loadInvalid 0#32 0#32 2#32).wellFormed = false := by decide
theorem test_loadInvalid_mode3_accepted : (Instr.loadInvalid 0#32 0#32 3#32).wellFormed = true := by decide
theorem test_never_selector1_refused : (Instr.jmp (.never 1#32) 0#32 0#32).wellFormed = false := by decide
theorem test_never_selector2_accepted : (Instr.jmp (.never 2#32) 0#32 0#32).wellFormed = true := by decide
theorem test_zero_selector4_refused : (Instr.checkFlag (.zero 4#32) 0#32 0#32).wellFormed = false := by decide
theorem test_zero_selector5_accepted : (Instr.checkFlag (.zero 5#32) 0#32 0#32).wellFormed = true := by decide

/-! ## Decoding: every constructor from a word written out from R62, R63 and R74 -/

theorem test_decode_halt : decodeTableWord 128 0x00000000FFFFFFFF1234567800000001 = some (.halt 0xFFFFFFFF#32 0x12345678#32 1#32) := by decide -- DEC2
theorem test_decode_loadDirect : decodeTableWord 128 0x00000001000000030000006400000000 = some (.loadDirect 3#32 100#32) := by decide -- DEC3
theorem test_decode_loadIndirect : decodeTableWord 128 0x00000001000000030000000200000001 = some (.loadIndirect 3#32 2#32) := by decide -- DEC4
theorem test_decode_loadImmediate : decodeTableWord 128 0x00000001000000030000006400000002 = some (.loadImmediate 3#32 100#32) := by decide -- DEC5
theorem test_decode_loadInvalid : decodeTableWord 128 0x00000001000000030000006400000003 = some (.loadInvalid 3#32 100#32 3#32) := by decide -- DEC6
theorem test_decode_store : decodeTableWord 128 0x00000002000000660000000200000000 = some (.store 102#32 2#32 0#32) := by decide -- DEC8
theorem test_decode_add : decodeTableWord 128 0x00000003000000020000000000000001 = some (.add 2#32 0#32 1#32) := by decide -- DEC9
theorem test_decode_sub : decodeTableWord 128 0x00000004000000090000000100000000 = some (.sub 9#32 1#32 0#32) := by decide -- P6 index 14
theorem test_decode_mul : decodeTableWord 128 0x00000005000000010000000100000002 = some (.mul 1#32 1#32 2#32) := by decide -- P2 index 7
theorem test_decode_div : decodeTableWord 128 0x00000006000000020000000000000001 = some (.div 2#32 0#32 1#32) := by decide -- DEC10
theorem test_decode_cmp : decodeTableWord 128 0x00000007DEADBEEF0000000200000000 = some (.cmp 0xDEADBEEF#32 2#32 0#32) := by decide -- DEC11
theorem test_decode_jmp_always : decodeTableWord 128 0x00000008000000050000000000000000 = some (.jmp .always 5#32 0#32) := by decide -- DEC12
theorem test_decode_jmp_ifZF : decodeTableWord 128 0x00000008000000050000000100000000 = some (.jmp .ifZF 5#32 0#32) := by decide -- DEC13
theorem test_decode_jmp_never : decodeTableWord 128 0x00000008000000050000000200000000 = some (.jmp (.never 2#32) 5#32 0#32) := by decide -- DEC14
theorem test_decode_mov : decodeTableWord 128 0x00000009000000010000000200000000 = some (.mov 1#32 2#32 0#32) := by decide -- DEC15
theorem test_decode_checkFlag_df : decodeTableWord 128 0x0000000A000000020000000400000000 = some (.checkFlag .df 2#32 0#32) := by decide -- DEC16
theorem test_decode_checkFlag_zero : decodeTableWord 128 0x0000000A000000020000000700000000 = some (.checkFlag (.zero 7#32) 2#32 0#32) := by decide -- DEC17
theorem test_decode_tag11_illegal : decodeWord 0x0000000B000000000000000000000000#128 = .error (.illegalTag 11#32) := rfl -- DEC18
theorem test_decode_tag256_illegal : decodeWord 0x00000100000000000000000000000000#128 = .error (.illegalTag 256#32) := rfl -- DEC20
theorem test_encode_checkFlag : encodeWord (.checkFlag .df 2#32 0#32) = 0x0000000A000000020000000400000000#128 := by decide
theorem test_encode_jmp : encodeWord (.jmp .ifZF 5#32 0#32) = 0x00000008000000050000000100000000#128 := by decide

/-! ## Instructions -/

theorem test_loadDirect_last_cell : regAndFlags 0#32 (exec (.loadDirect 0#32 1023#32) (demo)) =
    some (77#32, zcnod true false true false true) := by decide -- LD2
theorem test_loadDirect_at_M_is_nop : regAndFlags 0#32 (exec (.loadDirect 0#32 1024#32) (demo)) =
    some (9#32, zcnod true false true false true) := by decide -- LD3
theorem test_loadIndirect_dst_is_src : regAndFlags 1#32 (exec (.loadIndirect 1#32 1#32) (demo)) =
    some (10#32, zcnod true false true false true) := by decide -- LD6
theorem test_loadIndirect_src_at_N_is_nop : regAndFlags 2#32 (exec (.loadIndirect 2#32 16#32) (demo)) =
    some (12#32, zcnod true false true false true) := by decide -- LD7
theorem test_loadImmediate_max : regAndFlags 0#32 (exec (.loadImmediate 0#32 4294967295#32) (demo)) =
    some (0xFFFFFFFF#32, zcnod true false true false true) := by decide -- LD9
theorem test_loadImmediate_unchecked : regAndFlags 0#32 (exec (.loadImmediate 0#32 5000#32) (demo)) =
    some (5000#32, zcnod true false true false true) := by decide -- LD10
theorem test_loadInvalid_is_nop : regAndFlags 0#32 (exec (.loadInvalid 0#32 100#32 3#32) (demo)) =
    some (9#32, zcnod true false true false true) := by decide -- LD12
theorem test_mov : regAndFlags 1#32 (exec (.mov 1#32 2#32 7#32) (demo)) =
    some (12#32, zcnod true false true false true) := by decide -- MV5 on this start
theorem test_mov_src_at_N_is_nop : regAndFlags 1#32 (exec (.mov 1#32 16#32 0#32) (demo)) =
    some (300#32, zcnod true false true false true) := by decide -- MV4 on this start
theorem test_add_carries : regAndFlags 2#32 (exec (.add 2#32 0#32 1#32) (machine (regs4 0xFFFFFFF5#32 20#32 0xDEAD#32 0#32) (zcnod false false false false false))) =
    some (9#32, zcnod false true false false false) := by decide -- AD5
theorem test_add_signed_overflow_no_OF : regAndFlags 2#32 (exec (.add 2#32 0#32 1#32) (machine (regs4 0x7FFFFFFF#32 1#32 0xDEAD#32 0#32) (zcnod false false false false false))) =
    some (0x80000000#32, zcnod false false true false false) := by decide -- AD3
theorem test_sub_borrows : regAndFlags 2#32 (exec (.sub 2#32 0#32 1#32) (machine (regs4 5#32 7#32 0xDEAD#32 0#32) (zcnod false false false false false))) =
    some (0xFFFFFFFE#32, zcnod false true true false false) := by decide -- SB2
theorem test_sub_clears_OF_keeps_ZF_DF : regAndFlags 2#32 (exec (.sub 2#32 0#32 1#32) (machine (regs4 1#32 1#32 0xDEAD#32 0#32) (zcnod true false false true true))) =
    some (0#32, zcnod true false false false true) := by decide -- SB7
theorem test_mul_overflows : regAndFlags 2#32 (exec (.mul 2#32 0#32 1#32) (machine (regs4 479001600#32 13#32 0xDEAD#32 0#32) (zcnod false false false false false))) =
    some (0x7328CC00#32, zcnod false false false true false) := by decide -- MU8
theorem test_mul_keeps_ZF_CF_DF : regAndFlags 2#32 (exec (.mul 2#32 0#32 1#32) (machine (regs4 3#32 3#32 0xDEAD#32 0#32) (zcnod true true false false true))) =
    some (9#32, zcnod true true false false true) := by decide -- MU7
theorem test_div_by_zero : regAndFlags 2#32 (exec (.div 2#32 0#32 1#32) (machine (regs4 7#32 0#32 0xDEAD#32 0#32) (zcnod false false true false false))) =
    some (0xDEAD#32, zcnod false false true false true) := by decide -- DV2
theorem test_div_clears_CF_OF_DF : regAndFlags 2#32 (exec (.div 2#32 0#32 1#32) (machine (regs4 10#32 3#32 0xDEAD#32 0#32) (zcnod true true false true true))) =
    some (3#32, zcnod true false false false false) := by decide -- DV8
theorem test_cmp_writes_only_ZF : regAndFlags 0#32 (exec (.cmp 0#32 0#32 1#32) (machine (regs4 5#32 5#32 0xDEAD#32 0#32) (zcnod false true true true true))) =
    some (5#32, zcnod true true true true true) := by decide -- CP6
theorem test_cmp_bad_index_clears_ZF : regAndFlags 0#32 (exec (.cmp 0#32 16#32 1#32) (machine (regs4 5#32 5#32 0xDEAD#32 0#32) (zcnod true false false false false))) =
    some (5#32, zcnod false false false false false) := by decide -- CP3
theorem test_checkFlag_nf : regAndFlags 3#32 (exec (.checkFlag .nf 3#32 0#32) (demo)) =
    some (1#32, zcnod true false true false true) := by decide -- CF3
theorem test_checkFlag_other_index : regAndFlags 3#32 (exec (.checkFlag (.zero 5#32) 3#32 0#32) (demo)) =
    some (0#32, zcnod true false true false true) := by decide -- CF6
theorem test_store : (next? (exec (.store 102#32 2#32 0#32) demo)).map (fun t => t.dmem.cells) =
    some [(0, 3#32), (100, 5#32), (102, 12#32), (300, 10#32), (1023, 77#32)] := by decide -- ST1
theorem test_store_at_M_is_nop : next? (exec (.store 1024#32 2#32 0#32) demo) = some demo := by decide -- ST4
theorem test_jmp_last_index : (next? (exec (.jmp .ifZF 10#32 0#32) demo)).map State.pc = some 10#32 := by decide -- JP10
theorem test_jmp_to_length_skipped : (next? (exec (.jmp .always 11#32 0#32) demo)).map State.pc = some 9#32 := by
  decide -- JP6
theorem test_halt : (next? (exec (.halt 7#32 8#32 9#32) demo)).map State.pc = some 11#32 := by decide -- HT2, HT3

/-! ## The cycle -/

theorem test_reset_is_halted : next? (step State.reset) = none := rfl -- R32: HALTED, since L = 0
theorem test_illegal_record_refused :
    step (State.reset.withFetchWord 128 0x0000000B000000000000000000000000) = .refused (.illegalTag 11#32) := rfl -- FS6
theorem test_first_instruction_after_reset :
    (next? (step (State.reset.withFetchWord 128 0x00000001000000030000006400000002))).map (fun t => (t.pc, t.readReg 3#32)) =
      some (1#32, 100#32) := by decide -- DEC5 and FS4
theorem test_step_advances : (next? (step { demo with prog := placeRecord demo.prog 9 ⟨9#32, 1#32, 2#32, 0#32⟩ })).map
    (fun t => (t.pc, t.readReg 1#32)) = some (10#32, 12#32) := by decide -- R92 with R117

/-! ## Host operations and assembler text -/

theorem test_getMemoryValue_at_M : getMemoryValue 1024#32 demo = 0#32 := by decide -- HO2
theorem test_setMemoryValue : getMemoryValue 5#32 (setMemoryValue 5#32 42#32 demo) = 42#32 := by decide -- HO1
theorem test_set_unlisted_value_removes_entry : (setMemoryValue 100#32 0#32 demo).dmem.cells =
    [(0, 3#32), (300, 10#32), (1023, 77#32)] := by decide -- log 2
theorem test_packed_flags : demo.flags.packed = 0b10101#5 := by decide -- R26: DF, NF, ZF are bits 4, 2, 0
theorem test_assemble_check_flag : assemble "CHECK_FLAG R3,4,0" = some ⟨10#32, 3#32, 4#32, 0#32⟩ := by decide -- P5 index 3
theorem test_assemble_large_index : assemble "CMP 0,R1,R4294967295" = some ⟨7#32, 0#32, 1#32, 4294967295#32⟩ := by
  decide -- CP4
theorem test_assemble_rejects_two_to_32 : assemble "LOAD R0,4294967296,2" = none := by decide -- R8: not a 32-bit value

/-! ## Witnesses: each statement's hypotheses are met, each clause at a boundary of its range -/

/-- A READY state of the invariant whose next record is the one given. -/
def atRecord (r : Record) : State := { demo with prog := placeRecord demo.prog 9 r }

theorem demo_wf : demo.wf := by decide

theorem witness_DecodeOfEncodeIsTheInstruction : (Instr.loadInvalid 0xFFFFFFFF#32 0#32 3#32).wellFormed = true := by decide
theorem witness_EncodeOfDecodeIsTheWord :
    decodeWord 0x0000000A00000002000000050000FFFF#128 = .ok (.checkFlag (.zero 5#32) 2#32 0xFFFF#32) := rfl
theorem witness_DecoderAgreesWithOpcodeMap_ok : decodeWord 0x00000001000000030000006400000003#128 =
    .ok (.loadInvalid 3#32 100#32 3#32) := rfl
theorem witness_DecoderAgreesWithOpcodeMap_error :
    decodeWord 0x0000000B000000000000000000000000#128 = .error (.illegalTag 11#32) := rfl
theorem witness_LoadModeSelectorIsClosed : 3 ≤ (3#32 : Word).toNat := by decide
theorem witness_TagsOutsideTheCatalogAreRefused_illegal :
    (atRecord ⟨11#32, 0#32, 0#32, 0#32⟩).prog[(atRecord ⟨11#32, 0#32, 0#32, 0#32⟩).pc.toNat]? =
      some ⟨11#32, 0#32, 0#32, 0#32⟩ ∧ 11 ≤ (11#32 : Word).toNat := by decide
theorem witness_TagsOutsideTheCatalogAreRefused_legal :
    (atRecord ⟨10#32, 0#32, 0#32, 0#32⟩).prog[(atRecord ⟨10#32, 0#32, 0#32, 0#32⟩).pc.toNat]? =
      some ⟨10#32, 0#32, 0#32, 0#32⟩ ∧ (10#32 : Word).toNat < 11 := by decide
theorem witness_IgnoredOperandsChangeNothing :
    sameUsedOperands ⟨1#32, 0#32, 100#32, 3#32⟩ ⟨1#32, 0#32, 200#32, 3#32⟩ ∧
      decode ⟨1#32, 0#32, 100#32, 3#32⟩ = .ok (.loadInvalid 0#32 100#32 3#32) :=
  ⟨⟨rfl, rfl, rfl, fun h => absurd h (by decide)⟩, rfl⟩
theorem witness_LoadDirectReadsTheAddressedCell :
    ((15#32 : Word).toNat < demo.regs.length ∧ (1023#32 : Word).toNat < demo.dmem.size) ∧
      ¬((15#32 : Word).toNat < demo.regs.length ∧ (1024#32 : Word).toNat < demo.dmem.size) := by decide
theorem witness_LoadIndirectReadsTheCellARegisterNames :
    ((15#32 : Word).toNat < demo.regs.length ∧ (1#32 : Word).toNat < demo.regs.length ∧
        (demo.readReg 1#32).toNat < demo.dmem.size) ∧
      ¬((15#32 : Word).toNat < demo.regs.length ∧ (3#32 : Word).toNat < demo.regs.length ∧
        (demo.readReg 3#32).toNat < demo.dmem.size) := by decide
theorem witness_LoadImmediateStoresTheField :
    (15#32 : Word).toNat < demo.regs.length ∧ ¬(16#32 : Word).toNat < demo.regs.length := by decide
theorem witness_LoadInvalidModeIsNop : 3 ≤ (3#32 : Word).toNat ∧ 3 ≤ (4294967295#32 : Word).toNat := by decide
theorem witness_StoreWritesTheAddressedCell :
    (demo.dmem.wf ∧ (1023#32 : Word).toNat < demo.dmem.size ∧ (15#32 : Word).toNat < demo.regs.length) ∧
      ¬((1024#32 : Word).toNat < demo.dmem.size ∧ (15#32 : Word).toNat < demo.regs.length) := by decide
theorem witness_MovCopiesARegister :
    ((15#32 : Word).toNat < demo.regs.length ∧ (0#32 : Word).toNat < demo.regs.length) ∧
      ¬((15#32 : Word).toNat < demo.regs.length ∧ (16#32 : Word).toNat < demo.regs.length) := by decide
theorem witness_AddWritesSumAndItsFlags :
    ((15#32 : Word).toNat < demo.regs.length ∧ (0#32 : Word).toNat < demo.regs.length ∧
        (1#32 : Word).toNat < demo.regs.length) ∧
      ¬((16#32 : Word).toNat < demo.regs.length ∧ (0#32 : Word).toNat < demo.regs.length ∧
        (1#32 : Word).toNat < demo.regs.length) := by decide
theorem witness_SubWritesDifferenceAndItsFlags :
    ((2#32 : Word).toNat < demo.regs.length ∧ (15#32 : Word).toNat < demo.regs.length ∧
        (1#32 : Word).toNat < demo.regs.length) ∧
      ¬((2#32 : Word).toNat < demo.regs.length ∧ (16#32 : Word).toNat < demo.regs.length ∧
        (1#32 : Word).toNat < demo.regs.length) := by decide
theorem witness_MulWritesProductAndItsFlags :
    ((2#32 : Word).toNat < demo.regs.length ∧ (0#32 : Word).toNat < demo.regs.length ∧
        (15#32 : Word).toNat < demo.regs.length) ∧
      ¬((2#32 : Word).toNat < demo.regs.length ∧ (0#32 : Word).toNat < demo.regs.length ∧
        (16#32 : Word).toNat < demo.regs.length) := by decide
theorem witness_WidenedIntermediatesGiveCarryAndOverflow :
    (0#32 : Word).toNat < demo.regs.length ∧ (1#32 : Word).toNat < demo.regs.length ∧
      (15#32 : Word).toNat < demo.regs.length := by decide
theorem witness_DivWritesQuotientOrSetsDF :
    ((15#32 : Word).toNat < demo.regs.length ∧ (0#32 : Word).toNat < demo.regs.length) ∧
      ((1#32 : Word).toNat < demo.regs.length ∧ demo.readReg 1#32 ≠ 0#32) ∧
      ((4#32 : Word).toNat < demo.regs.length ∧ demo.readReg 4#32 = 0#32) ∧
      ¬((16#32 : Word).toNat < demo.regs.length ∧ (0#32 : Word).toNat < demo.regs.length ∧
        (4#32 : Word).toNat < demo.regs.length) := by decide
theorem witness_CheckFlagWritesTheSelectedFlag :
    (15#32 : Word).toNat < demo.regs.length ∧ ¬(16#32 : Word).toNat < demo.regs.length := by decide
theorem witness_JmpSetsPcToAnInBoundsTarget :
    ((10#32 : Word).toNat < demo.prog.length ∧
        ((1#32 : Word).toNat = 0 ∨ ((1#32 : Word).toNat = 1 ∧ demo.flags.zf = true))) ∧
      ¬((11#32 : Word).toNat < demo.prog.length ∧
        ((0#32 : Word).toNat = 0 ∨ ((0#32 : Word).toNat = 1 ∧ demo.flags.zf = true))) ∧
      ¬((10#32 : Word).toNat < demo.prog.length ∧
        ((2#32 : Word).toNat = 0 ∨ ((2#32 : Word).toNat = 1 ∧ demo.flags.zf = true))) := by decide
theorem witness_HaltSetsPcToTheProgramLength : demo.prog.length ≤ Config.maxProgLength := by decide
theorem witness_FlagPartitionIsKept :
    (∃ t, exec (.add 2#32 0#32 1#32) demo = .next t) ∧ (∃ t, exec (.sub 2#32 0#32 1#32) demo = .next t) ∧
      (∃ t, exec (.mul 2#32 0#32 1#32) demo = .next t) ∧ ∃ t, exec (.div 2#32 0#32 4#32) demo = .next t :=
  ⟨⟨_, rfl⟩, ⟨_, rfl⟩, ⟨_, rfl⟩, ⟨_, rfl⟩⟩
theorem witness_InstructionsChangeOnlyFlagsTheyOwn :
    (∃ t, exec (.add 2#32 0#32 1#32) demo = .next t) ∧ FlagSel.zf ∉ (Instr.add 2#32 0#32 1#32).ownedFlags :=
  ⟨⟨_, rfl⟩, by decide⟩
theorem witness_OnlyTheDestinationRegisterChanges :
    (∃ t, exec (.mov 1#32 2#32 0#32) demo = .next t) ∧
      ∀ d, (Instr.mov 1#32 2#32 0#32).destReg = some d → 0 ≠ d.toNat :=
  ⟨⟨_, rfl⟩, fun d h => by cases h; decide⟩
theorem witness_OnlyStoreWritesDataMemory :
    (Instr.loadDirect 1#32 100#32).writesMemory = false ∧ ∃ t, exec (.loadDirect 1#32 100#32) demo = .next t :=
  ⟨rfl, _, rfl⟩
theorem witness_OnlyLoadsDependOnDataMemory :
    (Instr.store 102#32 2#32 0#32).readsMemory = false ∧ (⟨1024, []⟩ : Memory).size = demo.dmem.size := by decide
theorem witness_FailedGuardsMakeANop :
    ¬guardsHold (.store 1024#32 2#32 0#32) demo ∧
      ((0#32 : Word).toNat < demo.regs.length ∧ (15#32 : Word).toNat < demo.regs.length) ∧
      ¬((0#32 : Word).toNat < demo.regs.length ∧ (16#32 : Word).toNat < demo.regs.length) :=
  ⟨fun h => absurd h.1 (by decide), by decide, by decide⟩
theorem witness_StepRunsTheDecodedInstruction :
    (atRecord ⟨9#32, 1#32, 2#32, 0#32⟩).prog[(atRecord ⟨9#32, 1#32, 2#32, 0#32⟩).pc.toNat]? =
        some ⟨9#32, 1#32, 2#32, 0#32⟩ ∧
      decode ⟨9#32, 1#32, 2#32, 0#32⟩ = .ok (.mov 1#32 2#32 0#32) := ⟨by decide, rfl⟩
theorem witness_FetchReadsBelowTheProgramLength :
    ({ demo with pc := 11#32 } : State).prog.length ≤ ({ demo with pc := 11#32 } : State).pc.toNat ∧
      ({ demo with pc := 10#32 } : State).pc.toNat < ({ demo with pc := 10#32 } : State).prog.length := by decide
theorem witness_PcAdvancesToTheFollowingIndex_plain :
    (atRecord ⟨9#32, 1#32, 2#32, 0#32⟩).wf ∧
      (atRecord ⟨9#32, 1#32, 2#32, 0#32⟩).prog[(atRecord ⟨9#32, 1#32, 2#32, 0#32⟩).pc.toNat]? =
        some ⟨9#32, 1#32, 2#32, 0#32⟩ ∧
      decode ⟨9#32, 1#32, 2#32, 0#32⟩ = .ok (.mov 1#32 2#32 0#32) ∧ (Instr.mov 1#32 2#32 0#32).writesPc = false :=
  ⟨by decide, by decide, rfl, rfl⟩
theorem witness_PcAdvancesToTheFollowingIndex_skipped_jump :
    (atRecord ⟨8#32, 11#32, 0#32, 0#32⟩).wf ∧
      (atRecord ⟨8#32, 11#32, 0#32, 0#32⟩).prog[(atRecord ⟨8#32, 11#32, 0#32, 0#32⟩).pc.toNat]? =
        some ⟨8#32, 11#32, 0#32, 0#32⟩ ∧
      decode ⟨8#32, 11#32, 0#32, 0#32⟩ = .ok (.jmp .always 11#32 0#32) ∧
      ¬((11#32 : Word).toNat < (atRecord ⟨8#32, 11#32, 0#32, 0#32⟩).prog.length ∧
        condHolds .always (atRecord ⟨8#32, 11#32, 0#32, 0#32⟩).flags = true) :=
  ⟨by decide, by decide, rfl, by decide⟩
theorem witness_StepKeepsProgramAndParameters : ∃ t, step (atRecord ⟨2#32, 102#32, 2#32, 0#32⟩) = .next t := ⟨_, rfl⟩
theorem witness_StepKeepsTheStateInvariant :
    (atRecord ⟨2#32, 1023#32, 4#32, 0#32⟩).wf ∧ ∃ t, step (atRecord ⟨2#32, 1023#32, 4#32, 0#32⟩) = .next t :=
  ⟨by decide, _, rfl⟩
theorem witness_LegalProgramsNeverAbort : demo.legalProgram ∧ ∃ t, stepsTo 1 demo t := ⟨by decide, _, _, rfl, rfl⟩
theorem witness_LegalProgramsStayLegalAndSafe : demo.legalProgram ∧ ∃ t, step demo = .next t := ⟨by decide, _, rfl⟩
theorem witness_CanonicalMemoriesThatAgreeAreEqual :
    demo.dmem.wf ∧ (demo.dmem.write 100 5#32).wf ∧ demo.dmem.size = (demo.dmem.write 100 5#32).size ∧
      ∀ a, a < demo.dmem.size → demo.dmem.read a = (demo.dmem.write 100 5#32).read a :=
  ⟨by decide, by decide, rfl, fun a _ => by rw [show demo.dmem.write 100 5#32 = demo.dmem by decide]⟩
theorem witness_LoadSeesThePrecedingStore :
    demo.dmem.wf ∧ (1023#32 : Word).toNat < demo.dmem.size ∧ (2#32 : Word).toNat < demo.regs.length ∧
      (15#32 : Word).toNat < demo.regs.length := by decide
theorem witness_ConstructionGivesTheInitialState : 15 < 16 ∧ 1023 < ((1024 : ℕ+) : Nat) := by decide
theorem witness_LoadProgramReplacesProgramAndClears_fits : demo.prog.length ≤ 2 ^ 32 - 1 ∧ 15 < demo.regs.length := by
  decide
theorem witness_LoadProgramReplacesProgramAndClears_too_long :
    2 ^ 32 - 1 < (List.replicate (2 ^ 32) (⟨0#32, 0#32, 0#32, 0#32⟩ : Record)).length := by
  rw [List.length_replicate]; decide
theorem witness_ResetClearsEngineAndKeepsMemories : 15 < demo.regs.length := by decide
theorem witness_ResetIsIdempotent : ∃ t, loadProgram demo.prog demo = .next t := ⟨_, rfl⟩
theorem witness_SetMemoryValueWritesOneCellInBounds :
    (demo.dmem.wf ∧ (1023#32 : Word).toNat < demo.dmem.size) ∧ demo.dmem.size ≤ (1024#32 : Word).toNat := by decide
theorem witness_GetMemoryValueReadsInBoundsElseZero :
    (demo.dmem.wf ∧ (0#32 : Word).toNat < demo.dmem.size) ∧ demo.dmem.size ≤ (1024#32 : Word).toNat := by decide
theorem witness_SettingMemoryAndLoadingCommute : demo.prog.length ≤ Config.maxProgLength := by decide
theorem witness_HostOperationsKeepTheStateInvariant :
    demo.wf ∧ (∃ t, hostStep (.setMemoryValue 1023#32 0#32) demo = .next t) ∧ (∃ t, run 1 demo = .ended t) ∧
      (∃ t, run 0 demo = .outOfFuel t) ∧
      (atRecord ⟨11#32, 0#32, 0#32, 0#32⟩).wf ∧
      ∃ t, run 0 (atRecord ⟨11#32, 0#32, 0#32, 0#32⟩) = .refused t (.illegalTag 11#32) :=
  ⟨demo_wf, ⟨_, rfl⟩, ⟨_, rfl⟩, ⟨_, rfl⟩, by decide, _, rfl⟩
theorem witness_OnlyLoadAndResetLeaveHalted :
    ({ demo with pc := 11#32 } : State).halted ∧
      (∃ t, hostStep .reset { demo with pc := 11#32 } = .next t ∧ t.ready) ∧
      (∃ t, loadProgram demo.prog demo = .next t) ∧ demo.prog.length ≤ Config.maxProgLength ∧
      ∃ t, exec (.halt 0#32 0#32 0#32) demo = .next t :=
  ⟨by decide, ⟨_, rfl, by decide⟩, ⟨_, rfl⟩, by decide, _, rfl⟩
theorem witness_RunEndsExactlyAtAHaltedState : ∃ t, run 1 demo = .ended t := ⟨_, rfl⟩
theorem witness_RunOnHaltedExecutesNothing :
    ({ demo with pc := 11#32 } : State).halted ∧ ∃ t, run 1 demo = .ended t := ⟨by decide, _, rfl⟩
theorem witness_MoreFuelDoesNotChangeAnEnd : (∃ t, run 1 demo = .ended t) ∧ 1 ≤ 2 := ⟨⟨_, rfl⟩, by decide⟩
theorem witness_OutOfFuelRunsResume : ∃ t, run 0 demo = .outOfFuel t := ⟨_, rfl⟩
theorem witness_JumpToItselfRunsForever :
    (atRecord ⟨8#32, 9#32, 0#32, 7#32⟩).prog[(atRecord ⟨8#32, 9#32, 0#32, 7#32⟩).pc.toNat]? =
      some ⟨8#32, (atRecord ⟨8#32, 9#32, 0#32, 7#32⟩).pc, 0#32, 7#32⟩ := by decide
theorem witness_AssembledRecordsDecode : assemble "ADD R2,R0,R1" = some ⟨3#32, 2#32, 0#32, 1#32⟩ := by decide

end Sys2Proof.Tests
end

section
/-! PROOFS. 00_scope.md R7: no step changes the parameters or program memory, and no rule reads the program capacity. -/

namespace Sys2Proof.Machine

/-! ## What a step is, by what it fetches and decodes -/

/-- A machine that fetches nothing has no step (40_execution_cycle.md R91). -/
theorem step_of_fetch_none {s : State} (hf : s.fetch = none) : step s = .fault .halted := by
  simp only [step, hf]

/-- A record outside the catalog is refused, with its tag (R93). -/
theorem step_of_illegalTag {s : State} {r : Record} {tag : Word} (hf : s.fetch = some r)
    (hd : decode r = .error (.illegalTag tag)) : step s = .refused (.illegalTag tag) := by
  simp only [step, hf, hd]

/-- A record of the catalog executes on the advanced pc (R92, R94). -/
theorem step_of_decode {s : State} {r : Record} {i : Instr} (hf : s.fetch = some r) (hd : decode r = .ok i) :
    step s = exec i s.advance := by
  simp only [step, hf, hd]

/-! ## The parameters and program memory are kept -/

/-- No update an instruction can make touches N, M, P or program memory (20_memory.md R52): a register write keeps the
length of the register file, a cell write the size of data memory. -/
theorem Update.keeps_fixed {i : Instr} {s t : State} (h : Update i s t) : sameFixed s t := by
  cases h with
  | none => exact ⟨rfl, rfl, rfl, rfl⟩
  | reg d v f => exact ⟨List.length_set, rfl, rfl, rfl⟩
  | flags f => exact ⟨rfl, rfl, rfl, rfl⟩
  | cell a v => exact ⟨rfl, Memory.write_size s.dmem a.toNat v, rfl, rfl⟩
  | jump cond target src2 => exact ⟨rfl, rfl, rfl, rfl⟩
  | stop dst src1 src2 => exact ⟨rfl, rfl, rfl, rfl⟩

/-- The pc increment is no part of what `sameFixed` compares. -/
theorem sameFixed_advance_iff (s t : State) : sameFixed s.advance t ↔ sameFixed s t := Iff.rfl

/-- Settles O34: a step is an `exec` on the advanced pc, and all `exec` can do is one `Update`. -/
theorem stepKeepsProgramAndParameters : Obligations.StepKeepsProgramAndParameters := by
  intro s t h
  obtain ⟨r, i, -, -, hexec⟩ := step_next h
  exact (sameFixed_advance_iff s t).1 (exec_next hexec).keeps_fixed

/-! ## The program capacity is read by no operation

Every read of the state gives the same with another capacity recorded, and every write commutes with recording it. -/

@[simp] theorem State.withCapacity_readReg (p : Nat) (s : State) (i : Word) :
    (s.withCapacity p).readReg i = s.readReg i := rfl
@[simp] theorem State.withCapacity_memRead (p : Nat) (s : State) (a : Word) :
    (s.withCapacity p).memRead a = s.memRead a := rfl
@[simp] theorem State.withCapacity_hasReg (p : Nat) (s : State) (i : Word) :
    (s.withCapacity p).hasReg i = s.hasReg i := rfl
@[simp] theorem State.withCapacity_hasCell (p : Nat) (s : State) (a : Word) :
    (s.withCapacity p).hasCell a = s.hasCell a := rfl
@[simp] theorem State.withCapacity_hasTarget (p : Nat) (s : State) (t : Word) :
    (s.withCapacity p).hasTarget t = s.hasTarget t := rfl
@[simp] theorem State.withCapacity_hasRegs3 (p : Nat) (s : State) (dst src1 src2 : Word) :
    (s.withCapacity p).hasRegs3 dst src1 src2 = s.hasRegs3 dst src1 src2 := rfl
@[simp] theorem State.withCapacity_programEnd (p : Nat) (s : State) :
    (s.withCapacity p).programEnd = s.programEnd := rfl
@[simp] theorem State.withCapacity_fetch (p : Nat) (s : State) : (s.withCapacity p).fetch = s.fetch := rfl

@[simp] theorem State.withCapacity_writeReg (p : Nat) (s : State) (i v : Word) :
    (s.withCapacity p).writeReg i v = (s.writeReg i v).withCapacity p := rfl
@[simp] theorem State.withCapacity_memWrite (p : Nat) (s : State) (a v : Word) :
    (s.withCapacity p).memWrite a v = (s.memWrite a v).withCapacity p := rfl
@[simp] theorem State.withCapacity_setPc (p : Nat) (s : State) (t : Word) :
    (s.withCapacity p).setPc t = (s.setPc t).withCapacity p := rfl
@[simp] theorem State.withCapacity_setFlags (p : Nat) (s : State) (f : StatusRegister) :
    (s.withCapacity p).setFlags f = (s.setFlags f).withCapacity p := rfl
@[simp] theorem State.withCapacity_advance (p : Nat) (s : State) :
    (s.withCapacity p).advance = s.advance.withCapacity p := rfl
@[simp] theorem State.withCapacity_clearEngine (p : Nat) (s : State) :
    (s.withCapacity p).clearEngine = s.clearEngine.withCapacity p := rfl

/-- A guarded instruction reads no capacity where neither its guards (`g'` and `g`, with and without the other capacity
recorded) nor its effect read it. -/
theorem guarded_withCapacity {g g' : Bool} {effect : State → State} {p : Nat} {s : State} (hg : g' = g)
    (he : effect (s.withCapacity p) = (effect s).withCapacity p) :
    guarded g' effect (s.withCapacity p) = mapNext (State.withCapacity p) (guarded g effect s) := by
  subst hg
  cases g' with
  | true => exact congrArg Host.Outcome.next he
  | false => rfl

theorem arith_withCapacity (result : Word → Word → Word) (flags : Word → Word → StatusRegister → StatusRegister)
    (dst src1 src2 : Word) (p : Nat) (s : State) :
    arith result flags dst src1 src2 (s.withCapacity p) =
      mapNext (State.withCapacity p) (arith result flags dst src1 src2 s) :=
  guarded_withCapacity (by simp) (by simp)

/-- Both cases of DIV, a zero divisor and another, read no capacity. -/
theorem divEffect_withCapacity (dst src1 src2 : Word) (p : Nat) (s : State) :
    divEffect dst src1 src2 (s.withCapacity p) = (divEffect dst src1 src2 s).withCapacity p := by
  by_cases hz : s.readReg src2 = 0#32
  · simp [divEffect, hz]
  · simp [divEffect, hz]

/-- No instruction reads the capacity. -/
theorem exec_withCapacity (i : Instr) (p : Nat) (s : State) :
    exec i (s.withCapacity p) = mapNext (State.withCapacity p) (exec i s) := by
  cases i with
  | halt dst src1 src2 => simp [exec_halt_eq]
  | loadDirect dst src1 =>
    simp only [exec_loadDirect_eq]
    exact guarded_withCapacity (by simp) (by simp)
  | loadIndirect dst src1 =>
    simp only [exec_loadIndirect_eq]
    exact guarded_withCapacity (by simp) (by simp)
  | loadImmediate dst src1 =>
    simp only [exec_loadImmediate_eq]
    exact guarded_withCapacity (by simp) (by simp)
  | loadInvalid dst src1 mode => simp [exec_loadInvalid_eq]
  | store dst src1 src2 =>
    simp only [exec_store_eq]
    exact guarded_withCapacity (by simp) (by simp)
  | add dst src1 src2 => exact arith_withCapacity addResult addFlags dst src1 src2 p s
  | sub dst src1 src2 => exact arith_withCapacity subResult subFlags dst src1 src2 p s
  | mul dst src1 src2 => exact arith_withCapacity mulResult mulFlags dst src1 src2 p s
  | div dst src1 src2 =>
    simp only [exec_div_eq]
    exact guarded_withCapacity (by simp) (divEffect_withCapacity dst src1 src2 p s)
  | cmp dst src1 src2 => exact congrArg Host.Outcome.next (s.withCapacity_setFlags p _)
  | jmp cond target src2 =>
    simp only [exec_jmp_eq]
    exact guarded_withCapacity (by simp) (by simp)
  | mov dst src1 src2 =>
    simp only [exec_mov_eq]
    exact guarded_withCapacity (by simp) (by simp)
  | checkFlag flag dst src2 =>
    simp only [exec_checkFlag_eq]
    exact guarded_withCapacity (by simp) (by simp)

/-- No step reads the capacity, whether it has a next state, is HALTED or is refused (R98). -/
theorem step_withCapacity (p : Nat) (s : State) :
    step (s.withCapacity p) = mapNext (State.withCapacity p) (step s) := by
  have hfetch : (s.withCapacity p).fetch = s.fetch := s.withCapacity_fetch p
  cases hf : s.fetch with
  | none => rw [step_of_fetch_none hf, step_of_fetch_none (hfetch.trans hf), mapNext_fault]
  | some r =>
    cases hd : decode r with
    | error e =>
      cases e with
      | illegalTag tag => rw [step_of_illegalTag hf hd, step_of_illegalTag (hfetch.trans hf) hd, mapNext_refused]
    | ok i =>
      rw [step_of_decode hf hd, step_of_decode (hfetch.trans hf) hd, State.withCapacity_advance, exec_withCapacity]

/-- No run reads the capacity (R100): where the step has a next state, by recursion on the fuel. -/
theorem run_withCapacity (p fuel : Nat) (s : State) :
    run fuel (s.withCapacity p) = (run fuel s).mapState (State.withCapacity p) := by
  have hstep := step_withCapacity p s
  cases h : step s with
  | fault r =>
    cases r with
    | halted =>
      rw [h, mapNext_fault] at hstep
      rw [run_of_halted fuel h, run_of_halted fuel hstep, RunResult.mapState_ended]
  | refused r =>
    rw [h, mapNext_refused] at hstep
    rw [run_of_refused fuel h, run_of_refused fuel hstep, RunResult.mapState_refused]
  | next t =>
    rw [h, mapNext_next] at hstep
    cases fuel with
    | zero => rw [run_zero_of_next h, run_zero_of_next hstep, RunResult.mapState_outOfFuel]
    | succ n =>
      rw [run_succ_of_next n h, run_succ_of_next n hstep]
      exact run_withCapacity p n t
termination_by fuel

/-- A load is accepted or refused by the program's length alone, not by the capacity (70_reset_and_hazards.md R192). -/
theorem loadProgram_withCapacity (prog : List Record) (p : Nat) (s : State) :
    loadProgram prog (s.withCapacity p) = mapNext (State.withCapacity p) (loadProgram prog s) := by
  by_cases hfits : prog.length ≤ Config.maxProgLength
  · simp only [loadProgram, if_pos hfits]; rfl
  · simp only [loadProgram, if_neg hfits]; rfl

theorem setMemoryValue_withCapacity (a v : Word) (p : Nat) (s : State) :
    setMemoryValue a v (s.withCapacity p) = (setMemoryValue a v s).withCapacity p := by
  by_cases hc : s.hasCell a = true
  · simp [setMemoryValue, hc]
  · simp [setMemoryValue, hc]

/-- No host operation reads the capacity (R196). -/
theorem hostStep_withCapacity (op : HostOp) (p : Nat) (s : State) :
    hostStep op (s.withCapacity p) = mapNext (State.withCapacity p) (hostStep op s) := by
  cases op with
  | loadProgram prog => exact loadProgram_withCapacity prog p s
  | reset => exact congrArg Host.Outcome.next (s.withCapacity_clearEngine p)
  | setMemoryValue a v => exact congrArg Host.Outcome.next (setMemoryValue_withCapacity a v p s)
  | getMemoryValue a => rfl
  | getStatusRegister => rfl

/-- No host operation's reply depends on the capacity (R196). -/
theorem hostReply_withCapacity (op : HostOp) (p : Nat) (s : State) :
    hostReply op (s.withCapacity p) = hostReply op s := by
  cases op with
  | loadProgram prog => rfl
  | reset => rfl
  | setMemoryValue a v => rfl
  | getMemoryValue a => rfl
  | getStatusRegister => rfl

/-- Construction only records the capacity (R191). -/
theorem construct_eq_withCapacity (capacity capacity' size : ℕ+) (init : Nat → Word) :
    construct capacity size init = (construct capacity' size init).withCapacity capacity := rfl

/-- Settles O35: a step, a run and a host operation each commute with recording another capacity. -/
theorem programCapacityIsReadByNoRule : Obligations.ProgramCapacityIsReadByNoRule :=
  ⟨fun p s => ⟨step_withCapacity p s, fun fuel => run_withCapacity p fuel s,
      fun op => ⟨hostStep_withCapacity op p s, hostReply_withCapacity op p s⟩⟩,
    construct_eq_withCapacity⟩

end Sys2Proof.Machine
end

section
/-! PROOFS. 10_state.md R22, R27, R30 to R32 and the state invariant: data memory in canonical form, what one update
changes, what every step, host operation and run keeps, and what leaves HALTED. -/

namespace Sys2Proof.Machine

/-! ## Data memory in canonical form

A canonical list holds exactly the cells that read as something else than an unlisted cell does, so it is determined by
its reads. -/

/-- A list of strictly rising indices with no unlisted value lists `v` for cell `a` exactly when the lookup at `a` finds
`v`, and `v` is one that needs listing. -/
theorem mem_iff_lookupCell {l : List (Nat × Word)} (hsorted : l.Pairwise (fun p q => p.1 < q.1))
    (hlisted : ∀ c ∈ l, c.2 ≠ Memory.unlisted) (a : Nat) (v : Word) :
    (a, v) ∈ l ↔ lookupCell a l = v ∧ v ≠ Memory.unlisted := by
  induction l with
  | nil => simp [lookupCell, eq_comm]
  | cons c rest ih =>
    obtain ⟨k, w⟩ := c
    obtain ⟨habove, hrest⟩ := List.pairwise_cons.1 hsorted
    obtain ⟨hw, hlisted'⟩ := List.forall_mem_cons.1 hlisted
    by_cases hka : k = a
    · subst hka
      have hnot : (k, v) ∉ rest := fun hmem => lt_irrefl k (habove (k, v) hmem)
      rw [List.mem_cons, lookupCell, if_pos rfl]
      constructor
      · rintro (hhead | hmem)
        · cases hhead
          exact ⟨rfl, hw⟩
        · exact absurd hmem hnot
      · rintro ⟨rfl, -⟩
        exact .inl rfl
    · simpa [lookupCell, hka, Ne.symm hka] using ih hrest hlisted'

/-- Canonical memory lists exactly the cells that do not read as unlisted, each with the value it reads. -/
theorem Memory.mem_cells_iff {m : Memory} (h : m.wf) (a : Nat) (v : Word) :
    (a, v) ∈ m.cells ↔ m.read a = v ∧ v ≠ Memory.unlisted := by
  obtain ⟨-, hsorted, hcells⟩ := h
  exact mem_iff_lookupCell hsorted (fun c hc => (hcells c hc).2) a v

/-- Where two canonical memories agree on every cell below the first one's size, the second lists all the first does. -/
theorem Memory.cells_subset_of_read_eq {m m' : Memory} (h : m.wf) (h' : m'.wf)
    (hread : ∀ a, a < m.size → m.read a = m'.read a) : m.cells ⊆ m'.cells := by
  intro c hc
  have ⟨_, _, hcells⟩ := h
  have hlt : c.1 < m.size := (hcells c hc).1
  rw [Memory.mem_cells_iff h' c.1 c.2, ← hread c.1 hlt]
  exact (Memory.mem_cells_iff h c.1 c.2).1 hc

/-- Settles O39: each memory lists all the other does, and a strictly rising list is determined by its members. -/
theorem canonicalMemoriesThatAgreeAreEqual : Obligations.CanonicalMemoriesThatAgreeAreEqual := by
  intro m m' h h' hsize hread
  have hread' : ∀ a, a < m'.size → m'.read a = m.read a := fun a ha => (hread a (hsize ▸ ha)).symm
  have ⟨_, hsorted, _⟩ := h
  have ⟨_, hsorted', _⟩ := h'
  have hcells : m.cells = m'.cells :=
    List.Subset.antisymm_of_pairwise (r := InvImage (· < ·) Prod.fst) hsorted hsorted'
      (Memory.cells_subset_of_read_eq h h' hread) (Memory.cells_subset_of_read_eq h' h hread')
  exact congrArg₂ Memory.mk hsize hcells

/-- Data memory as constructed reads as its initial contents below its size (10_state.md R31, R32). -/
theorem Memory.read_ofInit {size a : Nat} (init : Nat → Word) (ha : a < size) :
    (Memory.ofInit size init).read a = init a := by
  have hwf : (Memory.ofInit size init).wf := Memory.ofInit_wf (by omega) init
  by_cases hi : init a = Memory.unlisted
  · by_contra hne
    have hmem := (Memory.mem_cells_iff hwf a _).2 ⟨rfl, hi ▸ hne⟩
    obtain ⟨-, hread, -⟩ := mem_initCells hmem
    exact hne hread
  · have hmem : (a, init a) ∈ (Memory.ofInit size init).cells :=
      List.mem_filterMap.2 ⟨a, List.mem_range.2 ha, if_neg hi⟩
    exact ((Memory.mem_cells_iff hwf a _).1 hmem).1

/-! ## What one update leaves unchanged -/

/-- An update leaves every flag the instruction does not own as it was (R27). -/
theorem Update.keeps_flags {i : Instr} {s t : State} (h : Update i s t) :
    keepsFlagsBut i.ownedFlags s.flags t.flags := by
  cases h with
  | reg d v f _ hf => exact hf
  | flags f hf => exact hf
  | none => exact keepsFlagsBut_refl _ _
  | cell a v => exact keepsFlagsBut_refl _ _
  | jump cond target src2 => exact keepsFlagsBut_refl _ _
  | stop dst src1 src2 => exact keepsFlagsBut_refl _ _

/-- An update leaves every register but the instruction's destination as it was (R22). -/
theorem Update.keeps_other_regs {i : Instr} {s t : State} (h : Update i s t) {k : Nat}
    (hk : ∀ d, i.destReg = some d → k ≠ d.toNat) : t.regs[k]? = s.regs[k]? := by
  cases h with
  | reg d v f hd => exact s.writeReg_getElem?_other (hk d hd) v
  | none => rfl
  | flags f => rfl
  | cell a v => rfl
  | jump cond target src2 => rfl
  | stop dst src1 src2 => rfl

/-- Settles O25: all `exec` can do is one `Update`, and no update writes a flag outside the instruction's row. -/
theorem instructionsChangeOnlyFlagsTheyOwn : Obligations.InstructionsChangeOnlyFlagsTheyOwn :=
  fun _ _ _ h => (exec_next h).keeps_flags

/-- Settles O26: all `exec` can do is one `Update`, and no update writes a register but the destination. -/
theorem onlyTheDestinationRegisterChanges : Obligations.OnlyTheDestinationRegisterChanges :=
  fun _ _ _ h _ hk => (exec_next h).keeps_other_regs hk

/-! ## The state invariant under a step -/

/-- The lengths and the capacity of the invariant are among what `sameFixed` keeps: the pc bound and the canonical form
are what is left to show. -/
theorem State.wf_of_sameFixed {s t : State} (h : s.wf) (hfixed : sameFixed s t) (hpc : t.pc.toNat ≤ s.prog.length)
    (hmem : t.dmem.wf) : t.wf := by
  obtain ⟨hregs, hprog, -, -, hcap⟩ := h
  obtain ⟨eregs, -, ecap, eprog⟩ := hfixed
  exact ⟨eregs ▸ hregs, eprog ▸ hprog, eprog ▸ hpc, hmem, ecap ▸ hcap⟩

/-- A program length within R25's bound is the value HALT writes to the pc: it does not wrap (D5). -/
theorem State.programEnd_toNat {s : State} (h : s.prog.length ≤ Config.maxProgLength) :
    s.programEnd.toNat = s.prog.length := by
  rw [Config.maxProgLength] at h
  rw [State.programEnd, BitVec.toNat_ofNat, Nat.mod_eq_of_lt (by omega)]

/-- The increment of a READY machine's pc does not wrap (R24). -/
theorem State.advance_pc_toNat {s : State} (hready : s.ready) (h : s.prog.length ≤ Config.maxProgLength) :
    s.advance.pc.toNat = s.pc.toNat + 1 := by
  rw [Config.maxProgLength] at h
  have hlt : s.pc.toNat < s.prog.length := hready
  rw [State.advance_pc, BitVec.toNat_add, BitVec.toNat_ofNat]
  omega

/-- The increment of a READY machine's pc keeps the invariant: pc < L makes pc + 1 <= L. -/
theorem State.advance_wf {s : State} (h : s.wf) (hready : s.ready) : s.advance.wf := by
  have ⟨_, hprog, _, hmem, _⟩ := h
  have hpc : s.advance.pc.toNat ≤ s.prog.length := by rw [State.advance_pc_toNat hready hprog]; exact hready
  exact State.wf_of_sameFixed h ⟨rfl, rfl, rfl, rfl⟩ hpc hmem

/-- An update leaves the pc within [0, L]: a JMP sets it below L and HALT sets it to L (R24). -/
theorem Update.pc_le {i : Instr} {s t : State} (h : Update i s t) (hprog : s.prog.length ≤ Config.maxProgLength)
    (hpc : s.pc.toNat ≤ s.prog.length) : t.pc.toNat ≤ s.prog.length := by
  cases h with
  | jump cond target src2 _ htarget => exact htarget.le
  | stop dst src1 src2 => exact (State.programEnd_toNat hprog).le
  | none => exact hpc
  | reg d v f => exact hpc
  | flags f => exact hpc
  | cell a v => exact hpc

/-- An update keeps data memory in canonical form: a STORE writes a cell within the bounds. -/
theorem Update.dmem_wf {i : Instr} {s t : State} (h : Update i s t) (hmem : s.dmem.wf) : t.dmem.wf := by
  cases h with
  | cell a v ha => exact Memory.write_wf hmem ha v
  | none => exact hmem
  | reg d v f => exact hmem
  | flags f => exact hmem
  | jump cond target src2 => exact hmem
  | stop dst src1 src2 => exact hmem

/-- An update keeps the state invariant. -/
theorem Update.keeps_wf {i : Instr} {s t : State} (h : Update i s t) (hs : s.wf) : t.wf := by
  have ⟨_, hprog, hpc, hmem, _⟩ := hs
  exact State.wf_of_sameFixed hs h.keeps_fixed (h.pc_le hprog hpc) (h.dmem_wf hmem)

/-- A machine with a step is READY (R30, 40_execution_cycle.md R91). -/
theorem ready_of_step_next {s t : State} (h : step s = .next t) : s.ready := by
  obtain ⟨r, i, hfetch, -, -⟩ := step_next h
  obtain ⟨hready, -⟩ := (s.fetch_eq_some_iff r).1 hfetch
  exact hready

/-- Settles O36: the increment keeps the invariant because the machine is READY, and the one update that `exec` makes
keeps it too. -/
theorem stepKeepsTheStateInvariant : Obligations.StepKeepsTheStateInvariant := by
  intro s t hs h
  obtain ⟨r, i, -, -, hexec⟩ := step_next h
  exact (exec_next hexec).keeps_wf (State.advance_wf hs (ready_of_step_next h))

/-! ## Construction and reset -/

/-- Construction meets the invariant for all positive sizes (70_reset_and_hazards.md R191). -/
theorem construct_wf (capacity size : ℕ+) (init : Nat → Word) : (construct capacity size init).wf := by
  have hregs : Config.minRegCount ≤ (construct capacity size init).regs.length := by
    simp [construct, Config.minRegCount, Config.regCount]
  exact ⟨hregs, Nat.zero_le _, le_rfl, Memory.ofInit_wf size.pos init, capacity.pos⟩

/-- The reset state is the state after construction with the open parameters (log 7). -/
theorem reset_eq_construct :
    State.reset = construct Config.progCapacity Config.dmemSize Config.dmemInit := rfl

/-- Settles O37: reset is construction, which meets the invariant whatever the open parameters are. -/
theorem resetIsConstructionAndMeetsTheInvariant : Obligations.ResetIsConstructionAndMeetsTheInvariant :=
  ⟨reset_eq_construct, reset_eq_construct ▸ construct_wf _ _ _⟩

/-- Settles O41: the cells read as `DMEM_INIT` although those of the unlisted value have no entry; every other field is
the one `construct` writes. -/
theorem constructionGivesTheInitialState : Obligations.ConstructionGivesTheInitialState := by
  intro capacity size init
  have hregs : ∀ k, k < 16 → (construct capacity size init).regs[k]? = some 0#32 :=
    fun k hk => List.getElem?_replicate_of_lt hk
  have hcells : ∀ a, a < (size : Nat) → (construct capacity size init).dmem.read a = init a :=
    fun a ha => Memory.read_ofInit init ha
  exact ⟨rfl, hregs, rfl, hcells, rfl, rfl, rfl, rfl, le_rfl⟩

/-! ## The state invariant under the host operations and a run -/

/-- Clearing the engine keeps the invariant: N is kept and pc becomes 0 (70_reset_and_hazards.md R192, R193). -/
theorem State.clearEngine_wf {s : State} (hregs : Config.minRegCount ≤ s.regs.length)
    (hprog : s.prog.length ≤ Config.maxProgLength) (hmem : s.dmem.wf) (hcap : 0 < s.progCapacity) :
    s.clearEngine.wf :=
  ⟨by simpa using hregs, hprog, Nat.zero_le _, hmem, hcap⟩

/-- A host operation with a next state keeps the invariant (R196). -/
theorem hostStep_keeps_wf {op : HostOp} {s t : State} (hs : s.wf) (h : hostStep op s = .next t) : t.wf := by
  have ⟨hregs, hprog, hpc, hmem, hcap⟩ := hs
  rcases hostStep_next h with ⟨p, -, hfits, rfl⟩ | ⟨-, rfl⟩ | ⟨a, v, -, hcell, rfl⟩ | ⟨-, -, rfl⟩
  · exact State.clearEngine_wf hregs hfits hmem hcap
  · exact State.clearEngine_wf hregs hprog hmem hcap
  · have hwrite := Memory.write_wf hmem ((s.hasCell_iff a).1 hcell) v
    exact State.wf_of_sameFixed hs ⟨rfl, rfl, rfl, rfl⟩ hpc hwrite
  · exact hs

/-- What every step keeps holds of the state a run leaves the CORE in, by recursion on the fuel
(40_execution_cycle.md R100). -/
theorem run_state_of_step_invariant {Inv : State → Prop}
    (hstep : ∀ s t : State, Inv s → step s = .next t → Inv t) (fuel : Nat) {s : State} (hs : Inv s) :
    Inv (run fuel s).state := by
  cases h : step s with
  | fault r =>
    cases r with
    | halted => rwa [run_of_halted fuel h]
  | refused r => rwa [run_of_refused fuel h]
  | next t =>
    cases fuel with
    | zero => rwa [run_zero_of_next h]
    | succ n =>
      rw [run_succ_of_next n h]
      exact run_state_of_step_invariant hstep n (hstep s t hs h)
termination_by fuel

/-- Settles O49: each host operation keeps the invariant, a run keeps what every step keeps, and construction
gives it. -/
theorem hostOperationsKeepTheStateInvariant : Obligations.HostOperationsKeepTheStateInvariant :=
  ⟨fun _ _ _ hs h => hostStep_keeps_wf hs h,
    fun fuel _ hs => run_state_of_step_invariant stepKeepsTheStateInvariant fuel hs, construct_wf⟩

/-! ## What leaves HALTED -/

/-- HALTED is the negation of READY (R30). -/
theorem State.halted_iff_not_ready (s : State) : s.halted ↔ ¬s.ready := Nat.not_lt.symm

/-- A HALTED machine has no step (R30). -/
theorem step_ne_next_of_halted {s : State} (h : s.halted) (t : State) : step s ≠ .next t :=
  fun hstep => s.halted_iff_not_ready.1 h (ready_of_step_next hstep)

/-- After the engine is cleared the machine is READY exactly when there is a program (R30, R32). -/
theorem State.clearEngine_ready_iff (s : State) : s.clearEngine.ready ↔ 0 < s.prog.length := Iff.rfl

/-- A cell write moves neither pc nor L, so it changes nothing about READY. -/
theorem State.memWrite_ready_iff (s : State) (a v : Word) : (s.memWrite a v).ready ↔ s.ready := Iff.rfl

/-- The host leads from HALTED to READY by a reset or a load alone (R30). -/
theorem hostOp_of_leaves_halted {op : HostOp} {s t : State} (hs : s.halted) (h : hostStep op s = .next t)
    (ht : t.ready) : op = .reset ∨ ∃ p, op = .loadProgram p := by
  have hnot : ¬s.ready := s.halted_iff_not_ready.1 hs
  rcases hostStep_next h with ⟨p, hop, -, -⟩ | ⟨hop, -⟩ | ⟨a, v, -, -, rfl⟩ | ⟨-, -, rfl⟩
  · exact .inr ⟨p, hop⟩
  · exact .inl hop
  · exact absurd ((s.memWrite_ready_iff a v).1 ht) hnot
  · exact absurd ht hnot

/-- After a load the machine is READY exactly when the program loaded is not empty (R30, R32). -/
theorem ready_iff_of_loadProgram {p : List Record} {s t : State} (h : loadProgram p s = .next t) :
    t.ready ↔ 0 < p.length := by
  obtain ⟨-, rfl⟩ := loadProgram_next h
  exact State.clearEngine_ready_iff _

/-- HALT leads to HALTED where the program length is within R25's bound (44_control.md R163). -/
theorem halted_of_exec_halt {dst src1 src2 : Word} {s t : State} (hprog : s.prog.length ≤ Config.maxProgLength)
    (h : exec (.halt dst src1 src2) s = .next t) : t.halted := by
  rw [exec_halt_eq] at h
  obtain rfl := Host.Outcome.next.inj h
  exact (State.programEnd_toNat hprog).ge

/-- Settles O50: each clause is one of the lemmas above. -/
theorem onlyLoadAndResetLeaveHalted : Obligations.OnlyLoadAndResetLeaveHalted :=
  fun s => ⟨s.halted_iff_not_ready, step_ne_next_of_halted, fun _ _ => hostOp_of_leaves_halted,
    s.clearEngine_ready_iff, fun _ _ => ready_iff_of_loadProgram, fun _ _ _ _ => halted_of_exec_halt⟩

end Sys2Proof.Machine
end

section
/-! PROOFS. 20_memory.md R46 and R49: who writes data memory, who reads it, and a LOAD of the cell just stored. -/

namespace Sys2Proof.Machine

/-! ## A LOAD of the cell just stored -/

/-- The cell just written reads as the value written (R42). -/
theorem State.memRead_memWrite_same {s : State} (h : s.dmem.wf) (a v : Word) : (s.memWrite a v).memRead a = v :=
  Memory.read_write_same h a.toNat v

/-- Where its guards hold, STORE writes the cell (41_data_transfer.md R115). -/
theorem exec_store_of_guards {addr src : Word} {s : State} (haddr : addr.toNat < s.dmem.size)
    (hsrc : src.toNat < s.regs.length) (x : Word) :
    exec (.store addr src x) s = .next (s.memWrite addr (s.readReg src)) := by
  have hguards : (s.hasCell addr && s.hasReg src) = true := by
    rw [Bool.and_eq_true, State.hasCell_iff, State.hasReg_iff]
    exact ⟨haddr, hsrc⟩
  rw [exec_store_eq, guarded_pass hguards]

/-- Where its guards hold, LOAD.direct writes the register (R110). -/
theorem exec_loadDirect_of_guards {dst addr : Word} {s : State} (hdst : dst.toNat < s.regs.length)
    (haddr : addr.toNat < s.dmem.size) :
    exec (.loadDirect dst addr) s = .next (s.writeReg dst (s.memRead addr)) := by
  have hguards : (s.hasReg dst && s.hasCell addr) = true := by
    rw [Bool.and_eq_true, State.hasReg_iff, State.hasCell_iff]
    exact ⟨hdst, haddr⟩
  rw [exec_loadDirect_eq, guarded_pass hguards]

/-- Settles O40: the STORE keeps N and M, so the guards of the LOAD hold after it, and the cell it reads is the one
written. -/
theorem loadSeesThePrecedingStore : Obligations.LoadSeesThePrecedingStore := by
  intro addr src x dst s hmem haddr hsrc hdst
  have hstore := exec_store_of_guards haddr hsrc x
  obtain ⟨hregs, hsize, -, -⟩ := (exec_next hstore).keeps_fixed
  have hdst' := hregs.symm ▸ hdst
  have hload := exec_loadDirect_of_guards hdst' (hsize.symm ▸ haddr)
  refine ⟨_, _, hstore, hload, ?_⟩
  rw [State.readReg_writeReg_same hdst', State.memRead_memWrite_same hmem]

/-! ## Only STORE writes data memory -/

/-- An update by an instruction other than STORE leaves data memory as it was, listed cells and size alike (R46). -/
theorem Update.keeps_dmem {i : Instr} {s t : State} (h : Update i s t) (hi : i.writesMemory = false) :
    t.dmem = s.dmem := by
  cases h with
  | cell a v _ hm => exact absurd hm (by simp [hi])
  | none => rfl
  | reg d v f => rfl
  | flags f => rfl
  | jump cond target src2 => rfl
  | stop dst src1 src2 => rfl

/-- Settles O27: all `exec` can do is one `Update`, and the one that writes a cell is STORE's. -/
theorem onlyStoreWritesDataMemory : Obligations.OnlyStoreWritesDataMemory :=
  fun _ _ _ hi h => (exec_next h).keeps_dmem hi

/-! ## Only LOAD modes 0 and 1 read data memory

Every read but `memRead` gives the same with another data memory of the same size in place, and every write commutes with
putting it there: a cell write writes the other memory too. -/

/-- The state with another data memory. -/
def State.withMemory (m : Memory) (s : State) : State := { s with dmem := m }

@[simp] theorem State.withMemory_flags (m : Memory) (s : State) : (s.withMemory m).flags = s.flags := rfl
@[simp] theorem State.withMemory_readReg (m : Memory) (s : State) (i : Word) :
    (s.withMemory m).readReg i = s.readReg i := rfl
@[simp] theorem State.withMemory_hasReg (m : Memory) (s : State) (i : Word) :
    (s.withMemory m).hasReg i = s.hasReg i := rfl
@[simp] theorem State.withMemory_hasTarget (m : Memory) (s : State) (t : Word) :
    (s.withMemory m).hasTarget t = s.hasTarget t := rfl
@[simp] theorem State.withMemory_hasRegs3 (m : Memory) (s : State) (dst src1 src2 : Word) :
    (s.withMemory m).hasRegs3 dst src1 src2 = s.hasRegs3 dst src1 src2 := rfl
@[simp] theorem State.withMemory_programEnd (m : Memory) (s : State) :
    (s.withMemory m).programEnd = s.programEnd := rfl

/-- A cell's bounds check reads the size of data memory alone (R41). -/
theorem State.withMemory_hasCell {m : Memory} {s : State} (hm : m.size = s.dmem.size) (a : Word) :
    (s.withMemory m).hasCell a = s.hasCell a :=
  congrArg (fun size => decide (a.toNat < size)) hm

@[simp] theorem State.withMemory_writeReg (m : Memory) (s : State) (i v : Word) :
    (s.withMemory m).writeReg i v = (s.writeReg i v).withMemory m := rfl
@[simp] theorem State.withMemory_setPc (m : Memory) (s : State) (t : Word) :
    (s.withMemory m).setPc t = (s.setPc t).withMemory m := rfl
@[simp] theorem State.withMemory_setFlags (m : Memory) (s : State) (f : StatusRegister) :
    (s.withMemory m).setFlags f = (s.setFlags f).withMemory m := rfl
@[simp] theorem State.withMemory_memWrite (m : Memory) (s : State) (a v : Word) :
    (s.withMemory m).memWrite a v = (s.memWrite a v).withMemory (m.write a.toNat v) := rfl

/-- Both outcomes are next states, which differ in data memory at most. -/
def nextUpToMemory (o o' : Host.Outcome State Fault Refusal) : Prop :=
  ∃ t m, o = .next t ∧ o' = .next (t.withMemory m)

theorem nextUpToMemory_of_eq {t t' : State} {m : Memory} (h : t' = t.withMemory m) :
    nextUpToMemory (.next t) (.next t') :=
  ⟨t, m, rfl, congrArg _ h⟩

/-- A guarded instruction does the same up to data memory where its guards (`g'` and `g`, with and without the other
memory) agree and its effect does the same up to data memory: `m'` is what it leaves of the other memory. -/
theorem guarded_withMemory {g g' : Bool} {effect : State → State} {m : Memory} {s : State} (m' : Memory) (hg : g' = g)
    (he : effect (s.withMemory m) = (effect s).withMemory m') :
    nextUpToMemory (guarded g effect s) (guarded g' effect (s.withMemory m)) := by
  subst hg
  cases g' with
  | true => exact nextUpToMemory_of_eq he
  | false => exact nextUpToMemory_of_eq rfl

theorem arith_withMemory (result : Word → Word → Word) (flags : Word → Word → StatusRegister → StatusRegister)
    (dst src1 src2 : Word) (m : Memory) (s : State) :
    nextUpToMemory (arith result flags dst src1 src2 s) (arith result flags dst src1 src2 (s.withMemory m)) :=
  guarded_withMemory m (by simp) (by simp)

/-- Both cases of DIV, a zero divisor and another, read no cell. -/
theorem divEffect_withMemory (dst src1 src2 : Word) (m : Memory) (s : State) :
    divEffect dst src1 src2 (s.withMemory m) = (divEffect dst src1 src2 s).withMemory m := by
  by_cases hz : s.readReg src2 = 0#32
  · simp [divEffect, hz]
  · simp [divEffect, hz]

/-- No instruction but LOAD modes 0 and 1 reads a cell; STORE reads the size of data memory (R46). -/
theorem exec_withMemory {i : Instr} {m : Memory} {s : State} (hi : i.readsMemory = false)
    (hm : m.size = s.dmem.size) : nextUpToMemory (exec i s) (exec i (s.withMemory m)) := by
  cases i with
  | loadDirect dst src1 => cases hi
  | loadIndirect dst src1 => cases hi
  | halt dst src1 src2 =>
    simp only [exec_halt_eq]
    exact nextUpToMemory_of_eq (m := m) (by simp)
  | loadImmediate dst src1 =>
    simp only [exec_loadImmediate_eq]
    exact guarded_withMemory m (by simp) (by simp)
  | loadInvalid dst src1 mode =>
    simp only [exec_loadInvalid_eq]
    exact nextUpToMemory_of_eq rfl
  | store dst src1 src2 =>
    simp only [exec_store_eq]
    exact guarded_withMemory (m.write dst.toNat (s.readReg src1)) (by simp [State.withMemory_hasCell hm]) (by simp)
  | add dst src1 src2 =>
    simp only [exec_add_eq]
    exact arith_withMemory addResult addFlags dst src1 src2 m s
  | sub dst src1 src2 =>
    simp only [exec_sub_eq]
    exact arith_withMemory subResult subFlags dst src1 src2 m s
  | mul dst src1 src2 =>
    simp only [exec_mul_eq]
    exact arith_withMemory mulResult mulFlags dst src1 src2 m s
  | div dst src1 src2 =>
    simp only [exec_div_eq]
    exact guarded_withMemory m (by simp) (divEffect_withMemory dst src1 src2 m s)
  | cmp dst src1 src2 =>
    simp only [exec_cmp_eq]
    exact nextUpToMemory_of_eq (State.withMemory_setFlags m s _)
  | jmp cond target src2 =>
    simp only [exec_jmp_eq]
    exact guarded_withMemory m (by simp) (by simp)
  | mov dst src1 src2 =>
    simp only [exec_mov_eq]
    exact guarded_withMemory m (by simp) (by simp)
  | checkFlag flag dst src2 =>
    simp only [exec_checkFlag_eq]
    exact guarded_withMemory m (by simp) (by simp)

/-- Settles O28: up to data memory, the instruction makes the same next state with either memory. -/
theorem onlyLoadsDependOnDataMemory : Obligations.OnlyLoadsDependOnDataMemory := by
  intro i s m hi hm
  obtain ⟨t, m', hexec, hexec'⟩ := exec_withMemory hi hm
  exact ⟨t, t.withMemory m', hexec, hexec', rfl, rfl, rfl, rfl⟩

end Sys2Proof.Machine
end

section
/-! PROOFS. 30_encoding.md: the encoder and the decoder are inverse to each other (R60 to R70), the opcode map of R74 selects
the row that is decoded, ignored operands (R71), the records that text assembles to (R80), and words written out. -/

namespace Sys2Proof

/-! ## The selectors of an operand field

The field a selector was decoded from comes back from it, and the selector is one its case covers (R68 to R70). -/

theorem jmpCond_wellFormed (m : Word) : (jmpCond m).wellFormed = true := by
  rw [jmpCond_eq]
  split_ifs with h0 h1
  · rfl
  · rfl
  · have := toNat_ne_of_ne h0
    have := toNat_ne_of_ne h1
    exact decide_eq_true (by omega)

theorem selector_jmpCond (m : Word) : (jmpCond m).selector = m := by
  rw [jmpCond_eq]
  split_ifs with h0 h1
  · exact h0.symm
  · exact h1.symm
  · rfl

theorem flagSel_wellFormed (m : Word) : (flagSel m).wellFormed = true := by
  rw [flagSel_eq]
  split_ifs with h0 h1 h2 h3 h4
  · rfl
  · rfl
  · rfl
  · rfl
  · rfl
  · have := toNat_ne_of_ne h0
    have := toNat_ne_of_ne h1
    have := toNat_ne_of_ne h2
    have := toNat_ne_of_ne h3
    have := toNat_ne_of_ne h4
    exact decide_eq_true (by omega)

theorem selector_flagSel (m : Word) : (flagSel m).selector = m := by
  rw [flagSel_eq]
  split_ifs with h0 h1 h2 h3 h4
  · exact h0.symm
  · exact h1.symm
  · exact h2.symm
  · exact h3.symm
  · exact h4.symm
  · rfl

/-- The LOAD row of a mode field as a chain of comparisons (R68). -/
theorem decodeLoad_loadMode (dst src1 mode : Word) :
    decodeLoad (loadMode mode) dst src1 =
      if mode = 0#32 then .loadDirect dst src1
      else if mode = 1#32 then .loadIndirect dst src1
      else if mode = 2#32 then .loadImmediate dst src1
      else .loadInvalid dst src1 mode := by
  rw [loadMode_eq]
  split_ifs <;> rfl

theorem decodeLoad_wellFormed (dst src1 mode : Word) :
    (decodeLoad (loadMode mode) dst src1).wellFormed = true := by
  rw [decodeLoad_loadMode]
  split_ifs with h0 h1 h2
  · rfl
  · rfl
  · rfl
  · have := toNat_ne_of_ne h0
    have := toNat_ne_of_ne h1
    have := toNat_ne_of_ne h2
    exact decide_eq_true (by omega)

theorem encode_decodeLoad (dst src1 mode : Word) :
    encode (decodeLoad (loadMode mode) dst src1) = ⟨1#32, dst, src1, mode⟩ := by
  rw [decodeLoad_loadMode]
  split_ifs with h0 h1 h2
  · rw [h0]; rfl
  · rw [h1]; rfl
  · rw [h2]; rfl
  · rfl

/-! ## The decoder and the encoder over records -/

/-- The record of a well-formed instruction decodes to it (R66, R67). -/
theorem decode_encode {i : Instr} (h : i.wellFormed = true) : decode (encode i) = .ok i := by
  cases i with
  | halt dst src1 src2 => exact Laws.RecordRoundTrip.halt dst src1 src2 h
  | loadDirect dst src1 => exact Laws.RecordRoundTrip.loadDirect dst src1 h
  | loadIndirect dst src1 => exact Laws.RecordRoundTrip.loadIndirect dst src1 h
  | loadImmediate dst src1 => exact Laws.RecordRoundTrip.loadImmediate dst src1 h
  | loadInvalid dst src1 mode => exact Laws.RecordRoundTrip.loadInvalid dst src1 mode h
  | store dst src1 src2 => exact Laws.RecordRoundTrip.store dst src1 src2 h
  | add dst src1 src2 => exact Laws.RecordRoundTrip.add dst src1 src2 h
  | sub dst src1 src2 => exact Laws.RecordRoundTrip.sub dst src1 src2 h
  | mul dst src1 src2 => exact Laws.RecordRoundTrip.mul dst src1 src2 h
  | div dst src1 src2 => exact Laws.RecordRoundTrip.div dst src1 src2 h
  | cmp dst src1 src2 => exact Laws.RecordRoundTrip.cmp dst src1 src2 h
  | jmp cond target src2 => exact Laws.RecordRoundTrip.jmp cond target src2 h
  | mov dst src1 src2 => exact Laws.RecordRoundTrip.mov dst src1 src2 h
  | checkFlag flag dst src2 => exact Laws.RecordRoundTrip.checkFlag flag dst src2 h

/-- Every record with a tag of the catalog is the record of a well-formed instruction (R61, R63). -/
theorem exists_encode_eq {r : Record} (h : r.opcode.toNat < 11) : ∃ i : Instr, i.wellFormed = true ∧ encode i = r := by
  obtain ⟨opcode, dst, src1, src2⟩ := r
  obtain ⟨tag, htag, rfl⟩ : ∃ tag < 11, opcode = BitVec.ofNat 32 tag := ⟨opcode.toNat, h, by simp⟩
  match tag, htag with
  | 0, _ => exact ⟨.halt dst src1 src2, rfl, rfl⟩
  | 1, _ => exact ⟨decodeLoad (loadMode src2) dst src1, decodeLoad_wellFormed _ _ _, encode_decodeLoad _ _ _⟩
  | 2, _ => exact ⟨.store dst src1 src2, rfl, rfl⟩
  | 3, _ => exact ⟨.add dst src1 src2, rfl, rfl⟩
  | 4, _ => exact ⟨.sub dst src1 src2, rfl, rfl⟩
  | 5, _ => exact ⟨.mul dst src1 src2, rfl, rfl⟩
  | 6, _ => exact ⟨.div dst src1 src2, rfl, rfl⟩
  | 7, _ => exact ⟨.cmp dst src1 src2, rfl, rfl⟩
  | 8, _ => exact ⟨.jmp (jmpCond src1) dst src2, jmpCond_wellFormed src1, by rw [encode, selector_jmpCond]⟩
  | 9, _ => exact ⟨.mov dst src1 src2, rfl, rfl⟩
  | 10, _ => exact ⟨.checkFlag (flagSel src1) dst src2, flagSel_wellFormed src1, by rw [encode, selector_flagSel]⟩
  | n + 11, hn => omega

/-- Every record with a tag outside the catalog is rejected, with that tag (R64). -/
theorem decode_of_tag_ge {r : Record} (h : 11 ≤ r.opcode.toNat) : decode r = .error (.illegalTag r.opcode) := by
  unfold decode
  split <;> first | omega | rfl

/-- All the decoder can accept: the records of the well-formed instructions (R67). -/
theorem decode_eq_ok_iff {r : Record} {i : Instr} : decode r = .ok i ↔ i.wellFormed = true ∧ encode i = r := by
  constructor
  · intro hdecode
    have htag : r.opcode.toNat < 11 := by
      by_contra hge
      rw [decode_of_tag_ge (Nat.le_of_not_lt hge)] at hdecode
      cases hdecode
    obtain ⟨j, hwf, hj⟩ := exists_encode_eq htag
    rw [← hj, decode_encode hwf] at hdecode
    cases hdecode
    exact ⟨hwf, hj⟩
  · rintro ⟨hwf, rfl⟩
    exact decode_encode hwf

/-- All the decoder can reject: the records with a tag outside the catalog (R64). -/
theorem tag_ge_of_decode_error {r : Record} {e : DecodeError} (h : decode r = .error e) : 11 ≤ r.opcode.toNat := by
  by_contra hlt
  obtain ⟨i, hwf, rfl⟩ := exists_encode_eq (Nat.lt_of_not_le hlt)
  rw [decode_encode hwf] at h
  cases h

/-- Every record with a tag of the catalog decodes, to a well-formed instruction (R67). -/
theorem exists_decode_of_tag_lt {r : Record} (h : r.opcode.toNat < 11) :
    ∃ i, decode r = .ok i ∧ i.wellFormed = true := by
  obtain ⟨i, hwf, hi⟩ := exists_encode_eq h
  exact ⟨i, decode_eq_ok_iff.2 ⟨hwf, hi⟩, hwf⟩

/-! ## The two round trips over words -/

/-- Settles O4: the word of a record holds the record, and the record of a well-formed instruction decodes to it. -/
theorem decodeOfEncodeIsTheInstruction : Obligations.DecodeOfEncodeIsTheInstruction := by
  intro i hwf
  rw [decodeWord, encodeWord, Record.ofWord_toWord]
  exact decode_encode hwf

/-- Settles O5: the decoder accepts the records of the well-formed instructions alone, and a word is that of its record. -/
theorem encodeOfDecodeIsTheWord : Obligations.EncodeOfDecodeIsTheWord := by
  intro w i hdecode
  obtain ⟨hwf, hencode⟩ := decode_eq_ok_iff.1 hdecode
  exact ⟨hwf, by rw [encodeWord, hencode, Record.toWord_ofWord]⟩

/-! ## The opcode map -/

/-- The row of the opcode map that asks for a tag, and for a value of the bits of `src2` under a mask (R74). -/
def mapRow (mnemonic : String) (tag modeMask mode : Word) : OpcodeRow where
  mnemonic := mnemonic
  pattern := (⟨tag, 0#32, 0#32, mode⟩ : Record).toWord
  mask := (⟨BitVec.allOnes 32, 0#32, 0#32, modeMask⟩ : Record).toWord

/-- A row that asks for a tag alone. -/
abbrev tagRow (mnemonic : String) (tag : Word) : OpcodeRow := mapRow mnemonic tag 0#32 0#32

/-- A LOAD row that asks for a mode. -/
abbrev modeRow (mnemonic : String) (mode : Word) : OpcodeRow := mapRow mnemonic 1#32 (BitVec.allOnes 32) mode

/-- The digits of R74 are rows of these two kinds. -/
theorem opcodeMap_eq :
    opcodeMap =
      [tagRow "HALT" 0#32, modeRow "LOAD.direct" 0#32, modeRow "LOAD.indirect" 1#32, modeRow "LOAD.immediate" 2#32,
        tagRow "LOAD.invalid" 1#32, tagRow "STORE" 2#32, tagRow "ADD" 3#32, tagRow "SUB" 4#32, tagRow "MUL" 5#32,
        tagRow "DIV" 6#32, tagRow "CMP" 7#32, tagRow "JMP" 8#32, tagRow "MOV" 9#32, tagRow "CHECK_FLAG" 10#32] := by
  decide

/-- Two records with the same word are the same record (R62). -/
theorem Record.toWord_inj {r r' : Record} : r.toWord = r'.toWord ↔ r = r' :=
  ⟨fun h => by rw [← Record.ofWord_toWord r, h, Record.ofWord_toWord], fun h => h ▸ rfl⟩

/-- A mask acts on each field of a word (R62). -/
theorem Record.toWord_and (r m : Record) :
    r.toWord &&& m.toWord =
      (⟨r.opcode &&& m.opcode, r.dst &&& m.dst, r.src1 &&& m.src1, r.src2 &&& m.src2⟩ : Record).toWord := by
  have fields : (r.opcode ++ r.dst ++ r.src1 ++ r.src2) &&& (m.opcode ++ m.dst ++ m.src1 ++ m.src2) =
      (r.opcode &&& m.opcode) ++ (r.dst &&& m.dst) ++ (r.src1 &&& m.src1) ++ (r.src2 &&& m.src2) := by
    simp only [BitVec.and_append]
  exact fields

/-- A word selects a row where its tag and the masked bits of its `src2` are those of the row. -/
theorem mapRow_selects_iff (r : Record) (mnemonic : String) (tag modeMask mode : Word) :
    r.toWord &&& (mapRow mnemonic tag modeMask mode).mask = (mapRow mnemonic tag modeMask mode).pattern ↔
      r.opcode = tag ∧ r.src2 &&& modeMask = mode := by
  simp only [mapRow, Record.toWord_and, Record.toWord_inj, Record.mk.injEq, BitVec.and_allOnes, BitVec.and_zero,
    true_and]

theorem tagRow_selects (r : Record) (mnemonic : String) (tag : Word) :
    (r.toWord &&& (tagRow mnemonic tag).mask == (tagRow mnemonic tag).pattern) = decide (r.opcode = tag) := by
  rw [beq_eq_decide, decide_eq_decide, mapRow_selects_iff, BitVec.and_zero]
  exact and_iff_left rfl

theorem modeRow_selects (r : Record) (mnemonic : String) (mode : Word) :
    (r.toWord &&& (modeRow mnemonic mode).mask == (modeRow mnemonic mode).pattern) =
      decide (r.opcode = 1#32 ∧ r.src2 = mode) := by
  rw [beq_eq_decide, decide_eq_decide, mapRow_selects_iff, BitVec.and_allOnes]

/-- The first row the word of a well-formed instruction selects is the instruction's own (R74). -/
theorem opcodeRow_encodeWord {i : Instr} (h : i.wellFormed = true) :
    (opcodeRow (encodeWord i)).map OpcodeRow.mnemonic = some i.mnemonic := by
  rw [opcodeRow, opcodeMap_eq, encodeWord]
  simp only [List.find?_cons, tagRow_selects, modeRow_selects]
  cases i with
  | halt dst src1 src2 => rfl
  | loadDirect dst src1 => rfl
  | loadIndirect dst src1 => rfl
  | loadImmediate dst src1 => rfl
  | loadInvalid dst src1 mode =>
    have hmode : 3 ≤ mode.toNat := of_decide_eq_true h
    have h0 : mode ≠ 0#32 := by rintro rfl; simp at hmode
    have h1 : mode ≠ 1#32 := by rintro rfl; simp at hmode
    have h2 : mode ≠ 2#32 := by rintro rfl; simp at hmode
    simp [encode, h0, h1, h2, mapRow, Instr.mnemonic]
  | store dst src1 src2 => rfl
  | add dst src1 src2 => rfl
  | sub dst src1 src2 => rfl
  | mul dst src1 src2 => rfl
  | div dst src1 src2 => rfl
  | cmp dst src1 src2 => rfl
  | jmp cond target src2 => rfl
  | mov dst src1 src2 => rfl
  | checkFlag flag dst src2 => rfl

/-- A word with a tag outside the catalog selects no row (R74). -/
theorem opcodeRow_of_tag_ge {r : Record} (h : 11 ≤ r.opcode.toNat) : opcodeRow r.toWord = none := by
  have hne : ∀ tag : Word, tag.toNat < 11 → r.opcode ≠ tag := by
    rintro tag hlt rfl
    omega
  rw [opcodeRow, opcodeMap_eq]
  simp [tagRow_selects, modeRow_selects, hne]

/-- Settles O6: a word that decodes is the word of a well-formed instruction, and one that does not has a tag outside the
catalog. -/
theorem decoderAgreesWithOpcodeMap : Obligations.DecoderAgreesWithOpcodeMap := by
  intro w
  constructor
  · intro i hdecode
    obtain ⟨hwf, rfl⟩ := encodeOfDecodeIsTheWord w i hdecode
    exact opcodeRow_encodeWord hwf
  · intro e hdecode
    rw [← Record.toWord_ofWord w]
    exact opcodeRow_of_tag_ge (tag_ge_of_decode_error hdecode)

end Sys2Proof

namespace Sys2Proof.Machine

/-- Settles O7: the decoder accepts a record exactly where its tag is of the catalog, and the step refuses what it rejects. -/
theorem tagsOutsideTheCatalogAreRefused : Obligations.TagsOutsideTheCatalogAreRefused := by
  intro s r hfetch
  refine ⟨fun hge => ?_, exists_decode_of_tag_lt⟩
  have hdecode := decode_of_tag_ge hge
  exact ⟨hdecode, step_of_illegalTag hfetch hdecode⟩

/-! ## Ignored operands -/

/-- Two instructions of one row with the same outcome in every state (R71). -/
def sameRowAndEffect (i i' : Instr) : Prop := i.mnemonic = i'.mnemonic ∧ ∀ s : State, exec i s = exec i' s

/-- A record that differs from that of a well-formed instruction in ignored operands alone is the record of another of the
same row and effect: each row in turn, by the operands R66 marks X for it. -/
theorem exists_encode_of_sameUsedOperands {i : Instr} {r' : Record} (hwf : i.wellFormed = true)
    (h : sameUsedOperands (encode i) r') :
    ∃ i' : Instr, (i'.wellFormed = true ∧ encode i' = r') ∧ sameRowAndEffect i i' := by
  obtain ⟨opcode, dst', src1', src2'⟩ := r'
  obtain ⟨rfl, hused⟩ := h
  cases i with
  | halt dst src1 src2 => exact ⟨.halt dst' src1' src2', ⟨rfl, rfl⟩, rfl, fun _ => rfl⟩
  | loadDirect dst src1 =>
    obtain ⟨rfl, rfl, hsrc1⟩ := hused
    obtain rfl := hsrc1 (show (0#32).toNat < 3 by decide)
    exact ⟨.loadDirect dst src1, ⟨hwf, rfl⟩, rfl, fun _ => rfl⟩
  | loadIndirect dst src1 =>
    obtain ⟨rfl, rfl, hsrc1⟩ := hused
    obtain rfl := hsrc1 (show (1#32).toNat < 3 by decide)
    exact ⟨.loadIndirect dst src1, ⟨hwf, rfl⟩, rfl, fun _ => rfl⟩
  | loadImmediate dst src1 =>
    obtain ⟨rfl, rfl, hsrc1⟩ := hused
    obtain rfl := hsrc1 (show (2#32).toNat < 3 by decide)
    exact ⟨.loadImmediate dst src1, ⟨hwf, rfl⟩, rfl, fun _ => rfl⟩
  | loadInvalid dst src1 mode =>
    obtain ⟨rfl, rfl, -⟩ := hused
    exact ⟨.loadInvalid dst src1' mode, ⟨hwf, rfl⟩, rfl, fun _ => rfl⟩
  | store dst src1 src2 =>
    obtain ⟨rfl, rfl⟩ := hused
    exact ⟨.store dst src1 src2', ⟨rfl, rfl⟩, rfl, fun _ => rfl⟩
  | add dst src1 src2 => exact ⟨.add dst src1 src2, ⟨rfl, hused⟩, rfl, fun _ => rfl⟩
  | sub dst src1 src2 => exact ⟨.sub dst src1 src2, ⟨rfl, hused⟩, rfl, fun _ => rfl⟩
  | mul dst src1 src2 => exact ⟨.mul dst src1 src2, ⟨rfl, hused⟩, rfl, fun _ => rfl⟩
  | div dst src1 src2 => exact ⟨.div dst src1 src2, ⟨rfl, hused⟩, rfl, fun _ => rfl⟩
  | cmp dst src1 src2 =>
    obtain ⟨rfl, rfl⟩ := hused
    exact ⟨.cmp dst' src1 src2, ⟨rfl, rfl⟩, rfl, fun _ => rfl⟩
  | jmp cond target src2 =>
    obtain ⟨rfl, rfl⟩ := hused
    exact ⟨.jmp cond target src2', ⟨hwf, rfl⟩, rfl, fun _ => rfl⟩
  | mov dst src1 src2 =>
    obtain ⟨rfl, rfl⟩ := hused
    exact ⟨.mov dst src1 src2', ⟨rfl, rfl⟩, rfl, fun _ => rfl⟩
  | checkFlag flag dst src2 =>
    obtain ⟨rfl, rfl⟩ := hused
    exact ⟨.checkFlag flag dst src2', ⟨hwf, rfl⟩, rfl, fun _ => rfl⟩

/-- Settles O8: both records are those of well-formed instructions, of one row and effect. -/
theorem ignoredOperandsChangeNothing : Obligations.IgnoredOperandsChangeNothing := by
  intro r r' hsame i hdecode
  obtain ⟨hwf, rfl⟩ := decode_eq_ok_iff.1 hdecode
  obtain ⟨i', hencode, hrow, heffect⟩ := exists_encode_of_sameUsedOperands hwf hsame
  exact ⟨i', decode_eq_ok_iff.2 hencode, hrow, heffect⟩

/-! ## Assembler text -/

/-- The tag of a catalog name is below 11 (R63). -/
theorem opcodeOfName_lt {name : List Char} {tag : Nat} (h : opcodeOfName name = some tag) : tag < 11 := by
  obtain ⟨hlt, -⟩ := List.findIdx?_eq_some_iff_getElem.1 h
  exact hlt

/-- The record that fields assemble to has the tag it was asked for. -/
theorem assembleFields_opcode {tag : Nat} {dst src1 src2 : Option (List Char)} {r : Record}
    (h : assembleFields tag dst src1 src2 = some r) : r.opcode = BitVec.ofNat 32 tag := by
  unfold assembleFields at h
  split at h
  · cases h
  · split at h
    · obtain rfl := Option.some.inj h
      rfl
    · cases h

/-- All that text can assemble to: the fields of a catalog name, present or omitted (R80). -/
theorem assemble_eq_some {text : String} {r : Record} (h : assemble text = some r) :
    ∃ tag dst src1 src2, tag < 11 ∧ assembleFields tag dst src1 src2 = some r := by
  unfold assemble at h
  dsimp only at h
  split at h
  · cases h
  · next tag hname =>
    have htag := opcodeOfName_lt hname
    split at h
    · exact ⟨tag, _, _, _, htag, h⟩
    · split at h
      · exact ⟨tag, _, _, _, htag, h⟩
      · exact ⟨tag, _, _, _, htag, h⟩

/-- Settles O56: text assembles to a record with a tag of the catalog, and every such record decodes. -/
theorem assembledRecordsDecode : Obligations.AssembledRecordsDecode := by
  intro text r h
  obtain ⟨tag, dst, src1, src2, htag, hfields⟩ := assemble_eq_some h
  have hopcode : r.opcode.toNat = tag := by
    rw [assembleFields_opcode hfields, BitVec.toNat_ofNat, Nat.mod_eq_of_lt (by omega)]
  obtain ⟨i, hdecode, -⟩ := exists_decode_of_tag_lt (r := r) (by omega)
  exact ⟨i, hdecode⟩

/-! ## Fixed words and texts, and the LOAD mode selector -/

/-- Settles O1: each text, record and word of R75 is evaluated. -/
theorem workedExamplesEncodeAndDecode : Obligations.WorkedExamplesEncodeAndDecode :=
  ⟨⟨by decide, rfl, rfl⟩, ⟨by decide, rfl, rfl⟩, ⟨by decide, rfl, rfl⟩, ⟨by decide, rfl, rfl⟩, ⟨by decide, rfl, rfl⟩⟩

/-- Settles O2: each word is the word of its instruction, which O4 decodes; the last has a tag outside the catalog. -/
theorem writtenOutWordsDecode : Obligations.WrittenOutWordsDecode := by
  have hdecode := decodeOfEncodeIsTheInstruction
  exact ⟨hdecode (.loadIndirect 3#32 2#32) rfl, hdecode (.loadImmediate 3#32 100#32) rfl,
    hdecode (.loadInvalid 3#32 100#32 0xFFFFFFFF#32) rfl, hdecode (.sub 9#32 1#32 0#32) rfl,
    hdecode (.mul 1#32 1#32 2#32) rfl, hdecode (.div 2#32 0#32 1#32) rfl, hdecode (.cmp 0xDEADBEEF#32 2#32 0#32) rfl,
    hdecode (.jmp .always 5#32 0#32) rfl, hdecode (.jmp .ifZF 5#32 0#32) rfl, hdecode (.jmp (.never 2#32) 5#32 0#32) rfl,
    hdecode (.mov 1#32 2#32 0#32) rfl, hdecode (.checkFlag .zf 2#32 0#32) rfl, hdecode (.checkFlag .cf 2#32 0#32) rfl,
    hdecode (.checkFlag .nf 2#32 0#32) rfl, hdecode (.checkFlag .of 2#32 0#32) rfl,
    hdecode (.checkFlag .df 2#32 0#32) rfl, hdecode (.checkFlag (.zero 7#32) 2#32 0#32) rfl,
    decode_of_tag_ge (r := ⟨11#32, 0#32, 0#32, 0#32⟩) (by decide)⟩

/-- Settles O3: tag 1 decodes to the LOAD row of the mode field, and the invalid row is a `nop`. -/
theorem loadModeSelectorIsClosed : Obligations.LoadModeSelectorIsClosed := by
  intro dst src1 src2
  have hdecode : decode ⟨1#32, dst, src1, src2⟩ = .ok (decodeLoad (loadMode src2) dst src1) :=
    decode_eq_ok_iff.2 ⟨decodeLoad_wellFormed dst src1 src2, encode_decodeLoad dst src1 src2⟩
  exact ⟨by rw [hdecode, decodeLoad_loadMode], fun s _ => exec_loadInvalid_eq dst src1 src2 s⟩

/-- Settles O57: each text of R80 is evaluated. -/
theorem assemblerFormsAreAsListed : Obligations.AssemblerFormsAreAsListed :=
  ⟨by decide, by decide, by decide, by decide, by decide, by decide, by decide⟩

end Sys2Proof.Machine
end

section
/-! PROOFS. 40_execution_cycle.md: the step (R91, R92, R94), the guards (R95, R97), and a run as its steps (R100 to
R102). -/

namespace Sys2Proof.Machine

/-! ## The step -/

/-- Settles O31: a record of the catalog executes on the advanced pc. -/
theorem stepRunsTheDecodedInstruction : Obligations.StepRunsTheDecodedInstruction :=
  fun _ _ _ hfetch hdecode => step_of_decode hfetch hdecode

/-- Settles O32: a HALTED machine has no step, and below L the fetch is a read within program memory. -/
theorem fetchReadsBelowTheProgramLength : Obligations.FetchReadsBelowTheProgramLength :=
  fun s => ⟨step_ne_next_of_halted, fun h => (s.fetch_eq_some_iff _).2 ⟨h, rfl⟩⟩

/-- No instruction faults or is refused: each is one state update, guarded or not (60_exceptions.md R170, R171). -/
theorem exists_exec_eq_next (i : Instr) (s : State) : ∃ t, exec i s = .next t := by
  cases i <;> exact ⟨_, rfl⟩

/-- HALTED is the one way a step has no next state and is not refused (R91). -/
theorem step_eq_fault_iff (s : State) : step s = .fault .halted ↔ s.halted := by
  rw [← s.fetch_eq_none_iff]
  refine ⟨fun h => ?_, step_of_fetch_none⟩
  cases hf : s.fetch with
  | none => rfl
  | some r =>
    cases hd : decode r with
    | error e =>
      cases e with
      | illegalTag tag => cases h.symm.trans (step_of_illegalTag hf hd)
    | ok i =>
      obtain ⟨t, hexec⟩ := exists_exec_eq_next i s.advance
      cases h.symm.trans ((step_of_decode hf hd).trans hexec)

/-! ## The guards -/

/-- A guarded instruction is a `nop` where something its guards imply fails (R95). -/
theorem guarded_of_not {g : Bool} {P : Prop} {effect : State → State} {s : State} (hg : g = true → P) (h : ¬P) :
    guarded g effect s = .next s :=
  guarded_fail (mt hg h) effect s

/-- A JMP is skipped where its target is out of bounds or its condition fails (44_control.md R160). -/
theorem exec_jmp_of_not_taken {cond : JmpCond} {target : Word} {s : State}
    (h : ¬(target.toNat < s.prog.length ∧ condHolds cond s.flags = true)) (src2 : Word) :
    exec (.jmp cond target src2) s = .next s := by
  rw [exec_jmp_eq]
  refine guarded_of_not (fun hg => ?_) h
  rwa [Bool.and_eq_true, State.hasTarget_iff] at hg

/-- A JMP is taken where its target is in bounds and its condition holds (R160). -/
theorem exec_jmp_of_taken {cond : JmpCond} {target : Word} {s : State} (htarget : target.toNat < s.prog.length)
    (hcond : condHolds cond s.flags = true) (src2 : Word) :
    exec (.jmp cond target src2) s = .next (s.setPc target) := by
  have hguards : (s.hasTarget target && condHolds cond s.flags) = true := by
    rw [Bool.and_eq_true, State.hasTarget_iff]
    exact ⟨htarget, hcond⟩
  rw [exec_jmp_eq, guarded_pass hguards]

/-- An instruction whose guards fail is a `nop`: each row of R97's table in turn. -/
theorem exec_of_not_guardsHold {i : Instr} {s : State} (h : ¬guardsHold i s) : exec i s = .next s := by
  cases i with
  | halt dst src1 src2 => exact absurd trivial h
  | cmp dst src1 src2 => exact absurd trivial h
  | loadInvalid dst src1 mode => exact exec_loadInvalid_eq dst src1 mode s
  | loadDirect dst src1 =>
    rw [exec_loadDirect_eq]
    exact guarded_of_not (by simp [guardsHold, State.hasReg_iff, State.hasCell_iff]) h
  | loadIndirect dst src1 =>
    rw [exec_loadIndirect_eq]
    exact guarded_of_not (by simp [guardsHold, State.hasReg_iff, State.hasCell_iff, and_assoc]) h
  | loadImmediate dst src1 =>
    rw [exec_loadImmediate_eq]
    exact guarded_of_not (s.hasReg_iff dst).1 h
  | store dst src1 src2 =>
    rw [exec_store_eq]
    exact guarded_of_not (by simp [guardsHold, State.hasReg_iff, State.hasCell_iff]) h
  | add dst src1 src2 => exact arith_fail (mt (s.hasRegs3_iff dst src1 src2).1 h) addResult addFlags
  | sub dst src1 src2 => exact arith_fail (mt (s.hasRegs3_iff dst src1 src2).1 h) subResult subFlags
  | mul dst src1 src2 => exact arith_fail (mt (s.hasRegs3_iff dst src1 src2).1 h) mulResult mulFlags
  | div dst src1 src2 =>
    rw [exec_div_eq]
    exact guarded_of_not (s.hasRegs3_iff dst src1 src2).1 h
  | jmp cond target src2 => exact exec_jmp_of_not_taken (fun ⟨htarget, _⟩ => h htarget) src2
  | mov dst src1 src2 =>
    rw [exec_mov_eq]
    exact guarded_of_not (by simp [guardsHold, State.hasReg_iff]) h
  | checkFlag flag dst src2 =>
    rw [exec_checkFlag_eq]
    exact guarded_of_not (s.hasReg_iff dst).1 h

/-- CMP of two registers sets ZF to whether they are equal (43_compare_flags.md R150). -/
theorem exec_cmp_of_regs {src1 src2 : Word} {s : State} (h1 : src1.toNat < s.regs.length)
    (h2 : src2.toNat < s.regs.length) (dst : Word) :
    exec (.cmp dst src1 src2) s =
      .next (s.setFlags (cmpFlags (decide (s.readReg src1 = s.readReg src2)) s.flags)) := by
  rw [exec_cmp_eq, (s.hasReg_iff src1).2 h1, (s.hasReg_iff src2).2 h2, Bool.and_true, Bool.true_and]

/-- CMP with an index out of range clears ZF: it is no `nop` (R150, C7). -/
theorem exec_cmp_of_not_regs {src1 src2 : Word} {s : State}
    (h : ¬(src1.toNat < s.regs.length ∧ src2.toNat < s.regs.length)) (dst : Word) :
    exec (.cmp dst src1 src2) s = .next (s.setFlags (cmpFlags false s.flags)) := by
  have hregs : (s.hasReg src1 && s.hasReg src2) = false := by
    rwa [← Bool.not_eq_true, Bool.and_eq_true, State.hasReg_iff, State.hasReg_iff]
  rw [exec_cmp_eq, hregs, Bool.false_and]

/-- Settles O30: R97's table row by row, then CMP with both indices in range and with one out of range. -/
theorem failedGuardsMakeANop : Obligations.FailedGuardsMakeANop :=
  ⟨fun _ _ => exec_of_not_guardsHold, fun dst _ _ _ h1 h2 => exec_cmp_of_regs h1 h2 dst,
    fun dst _ _ _ h => exec_cmp_of_not_regs h dst⟩

/-! ## The pc after a step -/

/-- An update by an instruction other than JMP and HALT leaves the pc as it was (R92). -/
theorem Update.keeps_pc {i : Instr} {s t : State} (h : Update i s t) (hi : i.writesPc = false) : t.pc = s.pc := by
  cases h with
  | jump cond target src2 hjmp => subst hjmp; cases hi
  | stop dst src1 src2 hhalt => subst hhalt; cases hi
  | none => rfl
  | reg d v f => rfl
  | flags f => rfl
  | cell a v => rfl

/-- Settles O33: the machine is READY, so pc + 1 does not wrap; neither an instruction that writes no pc nor a skipped
JMP moves the pc from there. -/
theorem pcAdvancesToTheFollowingIndex : Obligations.PcAdvancesToTheFollowingIndex := by
  intro s r i ⟨_, hprog, _⟩ hfetch hdecode
  obtain ⟨hready, -⟩ := (s.fetch_eq_some_iff r).1 hfetch
  have hpc : s.advance.pc.toNat = s.pc.toNat + 1 := State.advance_pc_toNat hready hprog
  have hstep : step s = exec i s.advance := step_of_decode hfetch hdecode
  refine ⟨hpc, hstep, fun hi => ?_, fun cond target src2 hjmp hskip => ?_⟩
  · obtain ⟨t, hexec⟩ := exists_exec_eq_next i s.advance
    exact ⟨t, hstep.trans hexec, (exec_next hexec).keeps_pc hi ▸ hpc⟩
  · subst hjmp
    exact ⟨s.advance, hstep.trans (exec_jmp_of_not_taken (s := s.advance) hskip src2), hpc⟩

/-! ## A run as its steps -/

/-- The steps of a run can be taken first, for their number of fuel (R100). -/
theorem run_add_of_stepsTo {k : Nat} {s t : State} (h : stepsTo k s t) (n : Nat) : run (k + n) s = run n t := by
  induction k generalizing s with
  | zero =>
    obtain rfl : s = t := h
    rw [Nat.zero_add]
  | succ k ih =>
    obtain ⟨u, hstep, hrest⟩ := h
    rw [Nat.succ_add, run_succ_of_next _ hstep, ih hrest]

/-- A run from a HALTED state ends there, whatever the fuel (R100, R102). -/
theorem run_halted {s : State} (h : s.halted) (fuel : Nat) : run fuel s = .ended s :=
  run_of_halted fuel ((step_eq_fault_iff s).2 h)

/-- All the results a run from `s` with this fuel can have, by the steps it takes. -/
inductive RunOutcome (fuel : Nat) (s : State) : RunResult → Prop where
  /-- Steps within the fuel reach HALTED (R102). -/
  | ended {k : Nat} {t : State} (hk : k ≤ fuel) (hsteps : stepsTo k s t) (ht : t.halted) :
      RunOutcome fuel s (.ended t)
  /-- Every unit of fuel has been a step, and the machine is READY (R101). -/
  | outOfFuel {t : State} (hsteps : stepsTo fuel s t) (ht : t.ready) : RunOutcome fuel s (.outOfFuel t)
  /-- Steps within the fuel reach a state whose step is refused (R93). -/
  | refused {k : Nat} {t : State} {r : Refusal} (hk : k ≤ fuel) (hsteps : stepsTo k s t) (ht : step t = .refused r) :
      RunOutcome fuel s (.refused t r)

/-- A step before a run is one more step of it, for one more unit of fuel. -/
theorem RunOutcome.of_next {n : Nat} {s u : State} {o : RunResult} (hstep : step s = .next u) (h : RunOutcome n u o) :
    RunOutcome (n + 1) s o := by
  cases h with
  | ended hk hsteps ht => exact .ended (Nat.succ_le_succ hk) ⟨u, hstep, hsteps⟩ ht
  | outOfFuel hsteps ht => exact .outOfFuel ⟨u, hstep, hsteps⟩ ht
  | refused hk hsteps ht => exact .refused (Nat.succ_le_succ hk) ⟨u, hstep, hsteps⟩ ht

/-- All a run can do, said once: by what the first step is, with recursion on the fuel where it has a next state. -/
theorem run_outcome (fuel : Nat) (s : State) : RunOutcome fuel s (run fuel s) := by
  cases h : step s with
  | fault f =>
    cases f with
    | halted => exact run_of_halted fuel h ▸ .ended (Nat.zero_le _) rfl ((step_eq_fault_iff s).1 h)
  | refused r => exact run_of_refused fuel h ▸ .refused (Nat.zero_le _) rfl h
  | next u =>
    cases fuel with
    | zero => exact run_zero_of_next h ▸ .outOfFuel rfl (ready_of_step_next h)
    | succ n => exact run_succ_of_next n h ▸ .of_next h (run_outcome n u)
termination_by fuel

/-- A run ends in `t` exactly when steps within the fuel lead to `t` and `t` is HALTED (R102). -/
theorem run_eq_ended_iff {fuel : Nat} {s t : State} :
    run fuel s = .ended t ↔ ∃ k, k ≤ fuel ∧ stepsTo k s t ∧ t.halted := by
  constructor
  · intro h
    have houtcome := run_outcome fuel s
    rw [h] at houtcome
    cases houtcome with
    | ended hk hsteps ht => exact ⟨_, hk, hsteps, ht⟩
  · rintro ⟨k, hk, hsteps, ht⟩
    calc run fuel s = run (k + (fuel - k)) s := by rw [Nat.add_sub_cancel' hk]
      _ = run (fuel - k) t := run_add_of_stepsTo hsteps _
      _ = .ended t := run_halted ht _

/-- A run out of fuel has taken one step for each unit of it (R101). -/
theorem stepsTo_of_run_outOfFuel {fuel : Nat} {s t : State} (h : run fuel s = .outOfFuel t) : stepsTo fuel s t := by
  have houtcome := run_outcome fuel s
  rw [h] at houtcome
  cases houtcome with
  | outOfFuel hsteps => exact hsteps

/-- Settles O51: all a run can do gives the steps of one that ends, and those steps can be taken first. -/
theorem runEndsExactlyAtAHaltedState : Obligations.RunEndsExactlyAtAHaltedState :=
  fun _ _ _ => run_eq_ended_iff

/-- Settles O52: the state a run ends in is HALTED, and a run from a HALTED state ends there. -/
theorem runOnHaltedExecutesNothing : Obligations.RunOnHaltedExecutesNothing := by
  refine ⟨fun fuel s h => run_halted h fuel, fun fuel fuel' s t h => ?_⟩
  obtain ⟨k, -, -, hhalted⟩ := run_eq_ended_iff.1 h
  exact run_halted hhalted fuel'

/-- Settles O53: the steps of the run that ends are within the greater fuel too. -/
theorem moreFuelDoesNotChangeAnEnd : Obligations.MoreFuelDoesNotChangeAnEnd := by
  intro fuel fuel' s t h hle
  obtain ⟨k, hk, hsteps, hhalted⟩ := run_eq_ended_iff.1 h
  exact run_eq_ended_iff.2 ⟨k, hk.trans hle, hsteps, hhalted⟩

/-- Settles O54: the run has taken one step for each unit of fuel, and these can be taken first. -/
theorem outOfFuelRunsResume : Obligations.OutOfFuelRunsResume :=
  fun _ more _ _ h => run_add_of_stepsTo (stepsTo_of_run_outOfFuel h) more

/-! ## A JMP to itself -/

/-- A taken JMP to its own index undoes the pc increment, and changes nothing else (44_control.md R160). -/
theorem step_of_jump_to_itself {s : State} {x : Word} (hfetch : s.fetch = some ⟨8#32, s.pc, 0#32, x⟩) :
    step s = .next s := by
  obtain ⟨hready, -⟩ := (s.fetch_eq_some_iff _).1 hfetch
  have hdecode : decode ⟨8#32, s.pc, 0#32, x⟩ = .ok (.jmp .always s.pc x) :=
    decode_encode (i := .jmp .always s.pc x) rfl
  calc step s = exec (.jmp .always s.pc x) s.advance := step_of_decode hfetch hdecode
    _ = .next (s.advance.setPc s.pc) := exec_jmp_of_taken (s := s.advance) hready rfl x
    _ = .next s := rfl

/-- A state that steps to itself is where every run from it runs out of fuel (R101). -/
theorem run_of_step_to_itself {s : State} (h : step s = .next s) (fuel : Nat) : run fuel s = .outOfFuel s := by
  induction fuel with
  | zero => exact run_zero_of_next h
  | succ n ih => rw [run_succ_of_next n h, ih]

/-- Settles O55: the JMP steps to the same state, so a run takes that step for each unit of fuel. -/
theorem jumpToItselfRunsForever : Obligations.JumpToItselfRunsForever := by
  intro s x hfetch
  have hstep : step s = .next s := step_of_jump_to_itself hfetch
  exact ⟨hstep, run_of_step_to_itself hstep⟩

end Sys2Proof.Machine
end

section
/-! PROOFS. 41_data_transfer.md: LOAD in its modes (R110 to R113), STORE (R115) and MOV (R117). Each decodes as a
well-formed instruction, has its effect where its guards hold, and is a `nop` by R97's table where one fails. -/

namespace Sys2Proof.Machine

/-! ## The effect where the guards hold -/

/-- Where its guards hold, LOAD.indirect writes the register with the cell the old `x[src1]` names (R111). -/
theorem exec_loadIndirect_of_guards {dst src1 : Word} {s : State} (hdst : dst.toNat < s.regs.length)
    (hsrc1 : src1.toNat < s.regs.length) (haddr : (s.readReg src1).toNat < s.dmem.size) :
    exec (.loadIndirect dst src1) s = .next (s.writeReg dst (s.memRead (s.readReg src1))) := by
  have hguards : (s.hasReg dst && s.hasReg src1 && s.hasCell (s.readReg src1)) = true := by
    rw [Bool.and_eq_true, Bool.and_eq_true, State.hasReg_iff, State.hasReg_iff, State.hasCell_iff]
    exact ⟨⟨hdst, hsrc1⟩, haddr⟩
  rw [exec_loadIndirect_eq, guarded_pass hguards]

/-- Where its guard holds, LOAD.immediate writes the register with the field itself (R112). -/
theorem exec_loadImmediate_of_guard {dst : Word} {s : State} (hdst : dst.toNat < s.regs.length) (src1 : Word) :
    exec (.loadImmediate dst src1) s = .next (s.writeReg dst src1) := by
  rw [exec_loadImmediate_eq, guarded_pass ((s.hasReg_iff dst).2 hdst)]

/-- Where its guards hold, MOV writes the register with the old `x[src1]` (R117). -/
theorem exec_mov_of_guards {dst src1 : Word} {s : State} (hdst : dst.toNat < s.regs.length)
    (hsrc1 : src1.toNat < s.regs.length) (src2 : Word) :
    exec (.mov dst src1 src2) s = .next (s.writeReg dst (s.readReg src1)) := by
  have hguards : (s.hasReg dst && s.hasReg src1) = true := by
    rw [Bool.and_eq_true, State.hasReg_iff, State.hasReg_iff]
    exact ⟨hdst, hsrc1⟩
  rw [exec_mov_eq, guarded_pass hguards]

/-! ## The frame of a register write and of a memory write -/

theorem onlyRegChanges_writeReg (d v : Word) (s : State) : onlyRegChanges d s (s.writeReg d v) :=
  ⟨⟨List.length_set, rfl, rfl, rfl⟩, fun _ hk => s.writeReg_getElem?_other hk v, fun _ => rfl, rfl, rfl⟩

theorem sameCellsBut_memWrite {s : State} (h : s.dmem.wf) (a v : Word) : sameCellsBut a s (s.memWrite a v) :=
  fun _ hk => Memory.read_write_other h hk v

theorem sameFixed_memWrite (s : State) (a v : Word) : sameFixed s (s.memWrite a v) := ⟨rfl, rfl, rfl, rfl⟩

/-- What an instruction that writes one register in range gives: the value read back, and the frame. -/
theorem exists_next_of_writeReg {i : Instr} {d v : Word} {s : State} (hd : d.toNat < s.regs.length)
    (hexec : exec i s = .next (s.writeReg d v)) :
    ∃ t, exec i s = .next t ∧ t.readReg d = v ∧ onlyRegChanges d s t :=
  ⟨s.writeReg d v, hexec, State.readReg_writeReg_same hd v, onlyRegChanges_writeReg d v s⟩

/-! ## LOAD -/

/-- Settles O10: the address is read from the state before the write, so `dst = src1` needs no case of its own. -/
theorem loadIndirectReadsTheCellARegisterNames : Obligations.LoadIndirectReadsTheCellARegisterNames := by
  intro dst src1 s
  refine ⟨decode_encode (i := .loadIndirect dst src1) rfl, fun hdst hsrc1 haddr => ?_, fun hfail => ?_⟩
  · exact exists_next_of_writeReg hdst (exec_loadIndirect_of_guards hdst hsrc1 haddr)
  · exact exec_of_not_guardsHold hfail

/-- Settles O9: the register is written with the cell that `src1` names. -/
theorem loadDirectReadsTheAddressedCell : Obligations.LoadDirectReadsTheAddressedCell := by
  intro dst src1 s
  refine ⟨decode_encode (i := .loadDirect dst src1) rfl, fun hdst haddr => ?_, fun hfail => ?_⟩
  · exact exists_next_of_writeReg hdst (exec_loadDirect_of_guards hdst haddr)
  · exact exec_of_not_guardsHold hfail

/-- Settles O11: the one guard is on `dst`, and the value written is the field. -/
theorem loadImmediateStoresTheField : Obligations.LoadImmediateStoresTheField := by
  intro dst src1 s
  refine ⟨decode_encode (i := .loadImmediate dst src1) rfl, fun hdst => ?_, fun hfail => ?_⟩
  · exact exists_next_of_writeReg hdst (exec_loadImmediate_of_guard hdst src1)
  · exact exec_of_not_guardsHold hfail

/-- Settles O12: a mode of 3 or more is what makes the invalid row well-formed. -/
theorem loadInvalidModeIsNop : Obligations.LoadInvalidModeIsNop := by
  intro dst src1 mode s hmode
  have hwf : (Instr.loadInvalid dst src1 mode).wellFormed = true := decide_eq_true hmode
  exact ⟨decode_encode hwf, exec_loadInvalid_eq dst src1 mode s⟩

/-! ## STORE and MOV -/

/-- Settles O13: the canonical form is what a read after the write rests on, at the cell written and at every other. -/
theorem storeWritesTheAddressedCell : Obligations.StoreWritesTheAddressedCell := by
  intro dst src1 src2 s
  refine ⟨decode_encode (i := .store dst src1 src2) rfl, fun hmem hdst hsrc1 => ?_, fun hfail => ?_⟩
  · exact ⟨_, exec_store_of_guards hdst hsrc1 src2, State.memRead_memWrite_same hmem dst _,
      sameCellsBut_memWrite hmem dst _, sameFixed_memWrite s dst _, rfl, rfl, rfl⟩
  · exact exec_of_not_guardsHold hfail

/-- Settles O14: the source is read before the destination is written. -/
theorem movCopiesARegister : Obligations.MovCopiesARegister := by
  intro dst src1 src2 s
  refine ⟨decode_encode (i := .mov dst src1 src2) rfl, fun hdst hsrc1 => ?_, fun hfail => ?_⟩
  · exact exists_next_of_writeReg hdst (exec_mov_of_guards hdst hsrc1 src2)
  · exact exec_of_not_guardsHold hfail

end Sys2Proof.Machine
end

section
/-! PROOFS. 42_arithmetic.md: ADD (R130), SUB (R132), MUL (R134), DIV (R136), the 64-bit widened forms (R139) and the
flag partition (R140). The flags an instruction keeps are the `_keeps` lemmas of its flag function; here are those it
writes. -/

namespace Sys2Proof.Machine

/-! ## The flags written -/

theorem addFlags_cf_iff (a b : Word) (f : StatusRegister) :
    (addFlags a b f).cf = true ↔ 2 ^ 32 - 1 < a.toNat + b.toNat := decide_eq_true_iff

@[simp] theorem addFlags_nf (a b : Word) (f : StatusRegister) : (addFlags a b f).nf = (addResult a b).getLsbD 31 := rfl

@[simp] theorem addFlags_of (a b : Word) (f : StatusRegister) : (addFlags a b f).of = false := rfl

theorem subFlags_cf_iff (a b : Word) (f : StatusRegister) : (subFlags a b f).cf = true ↔ a.toNat < b.toNat :=
  decide_eq_true_iff

@[simp] theorem subFlags_nf (a b : Word) (f : StatusRegister) : (subFlags a b f).nf = (subResult a b).getLsbD 31 := rfl

@[simp] theorem subFlags_of (a b : Word) (f : StatusRegister) : (subFlags a b f).of = false := rfl

theorem mulFlags_of_iff (a b : Word) (f : StatusRegister) :
    (mulFlags a b f).of = true ↔ 2 ^ 32 - 1 < a.toNat * b.toNat := decide_eq_true_iff

@[simp] theorem mulFlags_nf (a b : Word) (f : StatusRegister) : (mulFlags a b f).nf = (mulResult a b).getLsbD 31 := rfl

@[simp] theorem divFlags_cf (a b : Word) (f : StatusRegister) : (divFlags a b f).cf = false := rfl
@[simp] theorem divFlags_nf (a b : Word) (f : StatusRegister) : (divFlags a b f).nf = (divResult a b).getLsbD 31 := rfl
@[simp] theorem divFlags_of (a b : Word) (f : StatusRegister) : (divFlags a b f).of = false := rfl
@[simp] theorem divFlags_df (a b : Word) (f : StatusRegister) : (divFlags a b f).df = false := rfl

@[simp] theorem divByZeroFlags_cf (f : StatusRegister) : (divByZeroFlags f).cf = false := rfl
@[simp] theorem divByZeroFlags_nf (f : StatusRegister) : (divByZeroFlags f).nf = f.nf := rfl
@[simp] theorem divByZeroFlags_of (f : StatusRegister) : (divByZeroFlags f).of = false := rfl
@[simp] theorem divByZeroFlags_df (f : StatusRegister) : (divByZeroFlags f).df = true := rfl

/-! ## The effect where the guards hold -/

theorem onlyRegAndFlagsChange_writeReg_setFlags (d v : Word) (f : StatusRegister) (s : State) :
    onlyRegAndFlagsChange d s ((s.writeReg d v).setFlags f) :=
  ⟨⟨List.length_set, rfl, rfl, rfl⟩, fun _ hk => s.writeReg_getElem?_other hk v, fun _ => rfl, rfl⟩

theorem onlyFlagsChange_setFlags (f : StatusRegister) (s : State) : onlyFlagsChange s (s.setFlags f) :=
  ⟨⟨rfl, rfl, rfl, rfl⟩, rfl, fun _ => rfl, rfl⟩

/-- What an outcome that writes one register in range and the flags gives: both read back, and the frame. -/
theorem exists_next_of_writeReg_setFlags {o : Host.Outcome State Fault Refusal} {d v : Word} {f : StatusRegister}
    {s : State} (hd : d.toNat < s.regs.length) (ho : o = .next ((s.writeReg d v).setFlags f)) :
    ∃ t, o = .next t ∧ t.readReg d = v ∧ t.flags = f ∧ onlyRegAndFlagsChange d s t :=
  ⟨_, ho, State.readReg_writeReg_same hd v, rfl, onlyRegAndFlagsChange_writeReg_setFlags d v f s⟩

/-- What ADD, SUB and MUL give where their guards hold. Both operands are read before the write, so `dst` may be a
source. -/
theorem exists_next_of_arith {dst src1 src2 : Word} {s : State} (hdst : dst.toNat < s.regs.length)
    (hsrc1 : src1.toNat < s.regs.length) (hsrc2 : src2.toNat < s.regs.length) (result : Word → Word → Word)
    (flags : Word → Word → StatusRegister → StatusRegister) :
    ∃ t, arith result flags dst src1 src2 s = .next t ∧
      t.readReg dst = result (s.readReg src1) (s.readReg src2) ∧
      t.flags = flags (s.readReg src1) (s.readReg src2) s.flags ∧ onlyRegAndFlagsChange dst s t :=
  exists_next_of_writeReg_setFlags hdst
    (arith_pass ((s.hasRegs3_iff dst src1 src2).2 ⟨hdst, hsrc1, hsrc2⟩) result flags)

/-- Where its guards hold, DIV comes to its zero test (R136). -/
theorem exec_div_of_guards {dst src1 src2 : Word} {s : State} (hdst : dst.toNat < s.regs.length)
    (hsrc1 : src1.toNat < s.regs.length) (hsrc2 : src2.toNat < s.regs.length) :
    exec (.div dst src1 src2) s = .next (divEffect dst src1 src2 s) := by
  rw [exec_div_eq, guarded_pass ((s.hasRegs3_iff dst src1 src2).2 ⟨hdst, hsrc1, hsrc2⟩)]

/-- A zero divisor: flags alone are written (R136). -/
theorem divEffect_of_zero {src2 : Word} {s : State} (h : s.readReg src2 = 0#32) (dst src1 : Word) :
    divEffect dst src1 src2 s = s.setFlags (divByZeroFlags s.flags) := if_pos h

/-- Any other divisor: the quotient and the flags are written (R136). -/
theorem divEffect_of_ne_zero {src2 : Word} {s : State} (h : s.readReg src2 ≠ 0#32) (dst src1 : Word) :
    divEffect dst src1 src2 s = (s.writeReg dst (divResult (s.readReg src1) (s.readReg src2))).setFlags
      (divFlags (s.readReg src1) (s.readReg src2) s.flags) := if_neg h

/-! ## ADD, SUB, MUL and DIV -/

/-- Settles O15: the result and the flags written are `addResult` and `addFlags` of the two old operands. -/
theorem addWritesSumAndItsFlags : Obligations.AddWritesSumAndItsFlags := by
  intro dst src1 src2 s
  refine ⟨decode_encode (i := .add dst src1 src2) rfl, fun hdst hsrc1 hsrc2 => ?_,
    fun hfail => exec_of_not_guardsHold hfail⟩
  obtain ⟨t, hexec, hreg, hflags, hframe⟩ := exists_next_of_arith hdst hsrc1 hsrc2 addResult addFlags
  refine ⟨t, hexec, ?_⟩
  rw [hreg, hflags]
  exact ⟨addResult_toNat _ _, addFlags_cf_iff _ _ _, addFlags_nf _ _ _, addFlags_of _ _ _,
    addFlags_keeps _ _ _ .zf (by decide), addFlags_keeps _ _ _ .df (by decide), hframe⟩

/-- Settles O16: the difference is taken over the integers and narrowed at the end, so an underflow wraps. -/
theorem subWritesDifferenceAndItsFlags : Obligations.SubWritesDifferenceAndItsFlags := by
  intro dst src1 src2 s
  refine ⟨decode_encode (i := .sub dst src1 src2) rfl, fun hdst hsrc1 hsrc2 => ?_,
    fun hfail => exec_of_not_guardsHold hfail⟩
  obtain ⟨t, hexec, hreg, hflags, hframe⟩ := exists_next_of_arith hdst hsrc1 hsrc2 subResult subFlags
  refine ⟨t, hexec, ?_⟩
  rw [hreg, hflags]
  exact ⟨subResult_toNat _ _, subFlags_cf_iff _ _ _, subFlags_nf _ _ _, subFlags_of _ _ _,
    subFlags_keeps _ _ _ .zf (by decide), subFlags_keeps _ _ _ .df (by decide), hframe⟩

/-- Settles O17: `mulFlags` owns OF and NF, so CF is among the flags it keeps. -/
theorem mulWritesProductAndItsFlags : Obligations.MulWritesProductAndItsFlags := by
  intro dst src1 src2 s
  refine ⟨decode_encode (i := .mul dst src1 src2) rfl, fun hdst hsrc1 hsrc2 => ?_,
    fun hfail => exec_of_not_guardsHold hfail⟩
  obtain ⟨t, hexec, hreg, hflags, hframe⟩ := exists_next_of_arith hdst hsrc1 hsrc2 mulResult mulFlags
  refine ⟨t, hexec, ?_⟩
  rw [hreg, hflags]
  exact ⟨mulResult_toNat _ _, mulFlags_of_iff _ _ _, mulFlags_nf _ _ _, mulFlags_keeps _ _ _ .zf (by decide),
    mulFlags_keeps _ _ _ .cf (by decide), mulFlags_keeps _ _ _ .df (by decide), hframe⟩

/-- Settles O18: the guards come first, then the zero test decides between the quotient and DF. -/
theorem divWritesQuotientOrSetsDF : Obligations.DivWritesQuotientOrSetsDF := by
  intro dst src1 src2 s
  refine ⟨decode_encode (i := .div dst src1 src2) rfl, fun hdst hsrc1 hsrc2 => ?_,
    fun hfail => exec_of_not_guardsHold hfail⟩
  have hexec := exec_div_of_guards hdst hsrc1 hsrc2
  refine ⟨fun hne => ?_, fun hzero => ?_⟩
  · rw [divEffect_of_ne_zero hne] at hexec
    obtain ⟨t, hnext, hreg, hflags, hframe⟩ := exists_next_of_writeReg_setFlags hdst hexec
    refine ⟨t, hnext, ?_⟩
    rw [hreg, hflags]
    exact ⟨divResult_toNat _ _, divFlags_df _ _ _, divFlags_nf _ _ _, divFlags_of _ _ _, divFlags_cf _ _ _,
      divFlags_keeps _ _ _ .zf (by decide), hframe⟩
  · rw [divEffect_of_zero hzero] at hexec
    exact ⟨_, hexec, divByZeroFlags_df _, divByZeroFlags_of _, divByZeroFlags_cf _, divByZeroFlags_nf _,
      divByZeroFlags_keeps _ .zf (by decide), onlyFlagsChange_setFlags _ s⟩

/-! ## The 64-bit widened intermediates

A word is below 2^32, so a sum and a product of two stay below 2^64: the 64-bit operation does not wrap (R139). -/

theorem widenedSum_toNat (a b : Word) : (a.zeroExtend 64 + b.zeroExtend 64).toNat = a.toNat + b.toNat := by
  have ha := a.isLt
  have hb := b.isLt
  simp only [BitVec.truncate_eq_setWidth, BitVec.toNat_add, BitVec.toNat_setWidth]
  omega

theorem widenedProduct_toNat (a b : Word) : (a.zeroExtend 64 * b.zeroExtend 64).toNat = a.toNat * b.toNat := by
  have hprod : a.toNat * b.toNat < 2 ^ 32 * 2 ^ 32 := Nat.mul_lt_mul'' a.isLt b.isLt
  simp only [BitVec.truncate_eq_setWidth, BitVec.toNat_mul, BitVec.toNat_setWidth, Nat.mul_mod_mod, Nat.mod_mul_mod]
  exact Nat.mod_eq_of_lt hprod

/-- Narrowing a 64-bit word to 32 bits is narrowing the number it holds. -/
theorem ofNat_eq_truncate {x : BitVec 64} {n : Nat} (h : x.toNat = n) : BitVec.ofNat 32 n = x.truncate 32 :=
  h ▸ BitVec.ofNat_toNat 32 x

/-- A 64-bit word exceeds the 32-bit maximum when the number it holds does. -/
theorem decide_exceeds_eq_of_toNat_eq {x : BitVec 64} {n : Nat} (h : x.toNat = n) :
    decide (2 ^ 32 - 1 < n) = decide (0xFFFFFFFF#64 < x) :=
  h ▸ decide_eq_decide.2 (BitVec.lt_def (x := 0xFFFFFFFF#64)).symm

/-- Settles O23: the widened sum and product are the exact ones, which is what `addResult`, `addFlags`, `mulResult` and
`mulFlags` narrow and test. -/
theorem widenedIntermediatesGiveCarryAndOverflow : Obligations.WidenedIntermediatesGiveCarryAndOverflow := by
  intro dst src1 src2 s hdst hsrc1 hsrc2
  obtain ⟨t, hadd, hsum, haddFlags, -⟩ := exists_next_of_arith hdst hsrc1 hsrc2 addResult addFlags
  obtain ⟨u, hmul, hprod, hmulFlags, -⟩ := exists_next_of_arith hdst hsrc1 hsrc2 mulResult mulFlags
  refine ⟨⟨t, hadd, ?_⟩, ⟨u, hmul, ?_⟩⟩
  · rw [hsum, haddFlags]
    exact ⟨ofNat_eq_truncate (widenedSum_toNat _ _), decide_exceeds_eq_of_toNat_eq (widenedSum_toNat _ _)⟩
  · rw [hprod, hmulFlags]
    exact ⟨ofNat_eq_truncate (widenedProduct_toNat _ _), decide_exceeds_eq_of_toNat_eq (widenedProduct_toNat _ _)⟩

/-! ## The flag partition -/

/-- An ADD, SUB or MUL whose flags clear OF sets it in no state: a failed guard leaves it as it was. -/
theorem arith_sets_no_of {result : Word → Word → Word} {flags : Word → Word → StatusRegister → StatusRegister}
    {dst src1 src2 : Word} {s t : State} (hclear : ∀ a b f, (flags a b f).of = false)
    (h : arith result flags dst src1 src2 s = .next t) (hof : t.flags.of = true) : s.flags.of = true := by
  rcases arith_next h with ⟨-, rfl⟩ | ⟨-, rfl⟩
  · exact absurd hof (by simp [hclear])
  · exact hof

/-- DIV sets CF in no state: both cases of its effect clear it. -/
theorem exec_div_sets_no_cf {dst src1 src2 : Word} {s t : State} (h : exec (.div dst src1 src2) s = .next t)
    (hcf : t.flags.cf = true) : s.flags.cf = true := by
  rcases execDiv_next h with ⟨-, rfl⟩ | ⟨-, rfl⟩
  · rcases divEffect_cases dst src1 src2 s with ⟨-, heffect⟩ | ⟨-, heffect⟩
    · exact absurd hcf (by simp [heffect])
    · exact absurd hcf (by simp [heffect])
  · exact hcf

/-- Settles O24: ZF, and CF for MUL, are outside the flags the instruction owns; OF and CF are cleared or kept. -/
theorem flagPartitionIsKept : Obligations.FlagPartitionIsKept := by
  intro dst src1 src2 s t
  refine ⟨fun h => ⟨arith_sets_no_of addFlags_of h, ?_⟩, fun h => ⟨arith_sets_no_of subFlags_of h, ?_⟩,
    fun h => ⟨?_, ?_⟩, fun h => ⟨exec_div_sets_no_cf h, ?_⟩⟩
  · exact instructionsChangeOnlyFlagsTheyOwn _ s t h .zf (by simp [Instr.ownedFlags])
  · exact instructionsChangeOnlyFlagsTheyOwn _ s t h .zf (by simp [Instr.ownedFlags])
  · exact instructionsChangeOnlyFlagsTheyOwn _ s t h .cf (by simp [Instr.ownedFlags])
  · exact instructionsChangeOnlyFlagsTheyOwn _ s t h .zf (by simp [Instr.ownedFlags])
  · exact instructionsChangeOnlyFlagsTheyOwn _ s t h .zf (by simp [Instr.ownedFlags])

end Sys2Proof.Machine
end

section
/-! PROOFS. 43_compare_flags.md: CMP (R150), which owns ZF alone and is no `nop` for any operands, and CHECK_FLAG (R152),
which reads the flag its field `src1` selects and writes no flag. -/

namespace Sys2Proof.Machine

/-! ## CMP -/

@[simp] theorem cmpFlags_zf (equal : Bool) (f : StatusRegister) : (cmpFlags equal f).zf = equal := rfl

/-- What CMP puts in ZF: both indices name registers, and these hold equal values (R150, C7). -/
theorem cmp_equal_iff (src1 src2 : Word) (s : State) :
    (s.hasReg src1 && s.hasReg src2 && decide (s.readReg src1 = s.readReg src2)) = true ↔
      src1.toNat < s.regs.length ∧ src2.toNat < s.regs.length ∧ s.readReg src1 = s.readReg src2 := by
  rw [Bool.and_eq_true, Bool.and_eq_true, State.hasReg_iff, State.hasReg_iff, decide_eq_true_iff, and_assoc]

/-- Settles O19: CMP is one flag update in every state, and the four flags other than ZF are among those it keeps. -/
theorem cmpWritesZFAlone : Obligations.CmpWritesZFAlone := by
  intro dst src1 src2 s
  refine ⟨decode_encode (i := .cmp dst src1 src2) rfl, _, exec_cmp_eq dst src1 src2 s, ?_⟩
  rw [State.setFlags_flags, cmpFlags_zf]
  exact ⟨cmp_equal_iff src1 src2 s, cmpFlags_keeps _ _ .cf (by decide), cmpFlags_keeps _ _ .nf (by decide),
    cmpFlags_keeps _ _ .of (by decide), cmpFlags_keeps _ _ .df (by decide), onlyFlagsChange_setFlags _ s⟩

/-! ## CHECK_FLAG -/

/-- One bit zero-extended is the number 0 or 1 (00_scope.md R9). -/
theorem zextBit_toNat (b : Bool) : (zextBit b).toNat = b.toNat := by
  cases b with
  | false => rfl
  | true => rfl

/-- A selector from 5 up names no flag (30_encoding.md R70). -/
theorem flagSel_of_ge {m : Word} (h : 5 ≤ m.toNat) : flagSel m = .zero m :=
  flagSel_selector (f := .zero m) (decide_eq_true h)

/-- The flag a selector field names, by the number the field holds (R70). -/
theorem flagValue_flagSel_toNat (m : Word) (f : StatusRegister) :
    (flagValue (flagSel m) f).toNat =
      if m.toNat = 0 then f.zf.toNat
      else if m.toNat = 1 then f.cf.toNat
      else if m.toNat = 2 then f.nf.toNat
      else if m.toNat = 3 then f.of.toNat
      else if m.toNat = 4 then f.df.toNat
      else 0 := by
  split_ifs with h0 h1 h2 h3 h4
  · obtain rfl : m = 0#32 := BitVec.eq_of_toNat_eq h0
    rfl
  · obtain rfl : m = 1#32 := BitVec.eq_of_toNat_eq h1
    rfl
  · obtain rfl : m = 2#32 := BitVec.eq_of_toNat_eq h2
    rfl
  · obtain rfl : m = 3#32 := BitVec.eq_of_toNat_eq h3
    rfl
  · obtain rfl : m = 4#32 := BitVec.eq_of_toNat_eq h4
    rfl
  · rw [flagSel_of_ge (by omega)]
    rfl

/-- Where its guard holds, CHECK_FLAG writes the register with the flag as 0 or 1 (R152). -/
theorem exec_checkFlag_of_guard {dst : Word} {s : State} (hdst : dst.toNat < s.regs.length) (flag : FlagSel)
    (src2 : Word) :
    exec (.checkFlag flag dst src2) s = .next (s.writeReg dst (zextBit (flagValue flag s.flags))) := by
  rw [exec_checkFlag_eq, guarded_pass ((s.hasReg_iff dst).2 hdst)]

/-- Settles O20: the register is written with the zero-extended flag, which is the one the field's number names. -/
theorem checkFlagWritesTheSelectedFlag : Obligations.CheckFlagWritesTheSelectedFlag := by
  intro dst src1 src2 s
  have hdecode : decode ⟨10#32, dst, src1, src2⟩ = .ok (.checkFlag (flagSel src1) dst src2) :=
    decode_eq_ok_iff.2 ⟨flagSel_wellFormed src1, by rw [encode, selector_flagSel]⟩
  refine ⟨hdecode, fun hdst => ?_, fun hfail => exec_of_not_guardsHold hfail⟩
  obtain ⟨t, hexec, hreg, hframe⟩ := exists_next_of_writeReg hdst (exec_checkFlag_of_guard hdst (flagSel src1) src2)
  refine ⟨t, hexec, hframe, ?_⟩
  rw [hreg, zextBit_toNat, flagValue_flagSel_toNat]

end Sys2Proof.Machine
end

section
/-! PROOFS. 44_control.md: JMP (R160) and HALT (R163), the two instructions that write the pc. -/

namespace Sys2Proof.Machine

theorem onlyPcChanges_setPc (s : State) (target : Word) : onlyPcChanges s (s.setPc target) :=
  ⟨⟨rfl, rfl, rfl, rfl⟩, rfl, fun _ => rfl, rfl⟩

/-! ## JMP -/

/-- A condition field is met by 0, or by 1 with ZF set; any other value never jumps (30_encoding.md R69, R160). -/
theorem condHolds_jmpCond_iff (src1 : Word) (f : StatusRegister) :
    condHolds (jmpCond src1) f = true ↔ src1.toNat = 0 ∨ (src1.toNat = 1 ∧ f.zf = true) := by
  rw [jmpCond_eq]
  split_ifs with h0 h1
  · subst h0
    simp [condHolds]
  · subst h1
    simp [condHolds]
  · exact iff_of_false Bool.false_ne_true (not_or.2 ⟨toNat_ne_of_ne h0, fun ⟨h, _⟩ => toNat_ne_of_ne h1 h⟩)

/-- Settles O21: whether the JMP is taken is the target bound and the condition the field's number names. -/
theorem jmpSetsPcToAnInBoundsTarget : Obligations.JmpSetsPcToAnInBoundsTarget := by
  intro dst src1 src2 s
  have hdecode : decode ⟨8#32, dst, src1, src2⟩ = .ok (.jmp (jmpCond src1) dst src2) :=
    decode_eq_ok_iff.2 ⟨jmpCond_wellFormed src1, by rw [encode, selector_jmpCond]⟩
  refine ⟨hdecode, fun htarget hcond => ?_, fun hskip => ?_⟩
  · have htaken := exec_jmp_of_taken htarget ((condHolds_jmpCond_iff src1 s.flags).2 hcond) src2
    exact ⟨_, htaken, s.setPc_pc dst, onlyPcChanges_setPc s dst⟩
  · rw [← condHolds_jmpCond_iff] at hskip
    exact exec_jmp_of_not_taken hskip src2

/-! ## HALT -/

/-- Settles O22: L fits a word under R25's bound, so the pc set to it is L itself. -/
theorem haltSetsPcToTheProgramLength : Obligations.HaltSetsPcToTheProgramLength := by
  intro dst src1 src2 s hprog
  have hexec := exec_halt_eq dst src1 src2 s
  exact ⟨decode_encode (i := .halt dst src1 src2) rfl, _, hexec, State.programEnd_toNat hprog,
    halted_of_exec_halt hprog hexec, onlyPcChanges_setPc s s.programEnd⟩

end Sys2Proof.Machine
end

section
/-! PROOFS. 60_exceptions.md R170 to R172: every instruction completes, and a program whose tags are all in the catalog
never aborts. -/

namespace Sys2Proof.Machine

/-- Settles O29: each instruction's meaning is one state update, guarded or not. -/
theorem everyInstructionCompletes : Obligations.EveryInstructionCompletes := exists_exec_eq_next

/-! ## A legal program -/

/-- The record fetched is one of program memory (40_execution_cycle.md R91). -/
theorem State.mem_prog_of_fetch {s : State} {r : Record} (h : s.fetch = some r) : r ∈ s.prog := by
  obtain ⟨hready, rfl⟩ := (s.fetch_eq_some_iff r).1 h
  exact List.getElem_mem hready

/-- A READY machine with a legal program has a step: the record at the pc decodes, and its instruction completes (R170). -/
theorem exists_step_eq_next_of_legalProgram {s : State} (hlegal : s.legalProgram) (hready : s.ready) :
    ∃ t, step s = .next t := by
  obtain ⟨r, hfetch⟩ : ∃ r, s.fetch = some r := ⟨_, (s.fetch_eq_some_iff _).2 ⟨hready, rfl⟩⟩
  obtain ⟨i, hdecode, -⟩ := exists_decode_of_tag_lt (hlegal r (State.mem_prog_of_fetch hfetch))
  obtain ⟨t, hexec⟩ := exists_exec_eq_next i s.advance
  exact ⟨t, (step_of_decode hfetch hdecode).trans hexec⟩

/-- A legal program makes the state safe, whether it is HALTED or READY (R172). -/
theorem State.safe_of_legalProgram {s : State} (hlegal : s.legalProgram) : s.safe := by
  by_cases hready : s.ready
  · exact .inr ⟨hready, exists_step_eq_next_of_legalProgram hlegal hready⟩
  · have hhalted : s.halted := s.halted_iff_not_ready.2 hready
    exact .inl ⟨hhalted, (step_eq_fault_iff s).2 hhalted⟩

/-- A step keeps a legal program legal, because it does not change program memory (20_memory.md R52). -/
theorem step_keeps_legalProgram {s t : State} (hlegal : s.legalProgram) (h : step s = .next t) : t.legalProgram := by
  obtain ⟨-, -, -, hprog⟩ := stepKeepsProgramAndParameters s t h
  rwa [State.legalProgram, hprog]

/-- Settles O58: a legal program is safe to step, and the step leaves program memory as it was. -/
theorem legalProgramsStayLegalAndSafe : Obligations.LegalProgramsStayLegalAndSafe :=
  fun _ hlegal => ⟨State.safe_of_legalProgram hlegal, fun _ => step_keeps_legalProgram hlegal⟩

/-! ## Every state reached -/

/-- What every step keeps holds after any number of steps. -/
theorem stepsTo_keeps_of_step_invariant {Inv : State → Prop}
    (hstep : ∀ s t : State, Inv s → step s = .next t → Inv t) {k : Nat} {s t : State} (hs : Inv s)
    (h : stepsTo k s t) : Inv t := by
  induction k generalizing s with
  | zero =>
    obtain rfl : s = t := h
    exact hs
  | succ k ih =>
    obtain ⟨u, hu, hrest⟩ := h
    exact ih (hstep s u hs hu) hrest

/-- Settles O38: every state reached has a legal program, so it is safe. -/
theorem legalProgramsNeverAbort : Obligations.LegalProgramsNeverAbort := by
  intro s hlegal k t h
  have hlegal' : t.legalProgram := stepsTo_keeps_of_step_invariant (fun _ _ => step_keeps_legalProgram) hlegal h
  exact State.safe_of_legalProgram hlegal'

end Sys2Proof.Machine
end

section
/-! PROOFS. 70_reset_and_hazards.md R192 to R200: the program load, the reset, the two memory accesses of the host, and the
host interface over them. -/

namespace Sys2Proof.Machine

/-! ## The program load and the reset -/

/-- Clearing the engine leaves 0 in each of the N registers. -/
theorem State.clearEngine_regs_getElem? {s : State} {k : Nat} (hk : k < s.regs.length) :
    s.clearEngine.regs[k]? = some 0#32 :=
  List.getElem?_replicate_of_lt hk

theorem State.clearEngine_regs_length (s : State) : s.clearEngine.regs.length = s.regs.length :=
  List.length_replicate

/-- Clearing is idempotent because it keeps N, the one field of the engine it reads. -/
theorem State.clearEngine_clearEngine (s : State) : s.clearEngine.clearEngine = s.clearEngine := by
  simp only [State.clearEngine, List.length_replicate]

theorem loadProgram_of_fits {p : List Record} (h : p.length ≤ Config.maxProgLength) (s : State) :
    loadProgram p s = .next ({ s with prog := p } : State).clearEngine :=
  if_pos h

/-- A load beyond R25's bound is refused (D5). -/
theorem loadProgram_of_too_long {p : List Record} (h : Config.maxProgLength < p.length) (s : State) :
    loadProgram p s = .refused .programTooLong :=
  if_neg h.not_ge

/-- Settles O42: a load that fits clears the engine of the state whose program is replaced. -/
theorem loadProgramReplacesProgramAndClears : Obligations.LoadProgramReplacesProgramAndClears := by
  refine fun p s => ⟨fun hfits => ?_, fun hlong => loadProgram_of_too_long hlong s⟩
  have hload := loadProgram_of_fits hfits s
  exact ⟨_, hload, rfl, rfl, rfl, State.clearEngine_regs_length _, fun _ => State.clearEngine_regs_getElem?, rfl, rfl⟩

/-- Settles O43: reset is the clearing of the engine alone. -/
theorem resetClearsEngineAndKeepsMemories : Obligations.ResetClearsEngineAndKeepsMemories :=
  fun s => ⟨rfl, rfl, s.clearEngine_regs_length, fun _ => State.clearEngine_regs_getElem?, rfl, rfl, rfl⟩

/-- Settles O44: the state after a reset or a load is one whose engine was just cleared, and clearing is idempotent. -/
theorem resetIsIdempotent : Obligations.ResetIsIdempotent := by
  refine fun s => ⟨s.clearEngine_clearEngine, fun _ _ hload => ?_⟩
  obtain ⟨-, rfl⟩ := loadProgram_next hload
  exact State.clearEngine_clearEngine _

/-! ## The host's memory accesses -/

theorem setMemoryValue_of_lt {a : Word} {s : State} (h : a.toNat < s.dmem.size) (v : Word) :
    setMemoryValue a v s = s.memWrite a v :=
  if_pos ((s.hasCell_iff a).2 h)

/-- An out-of-range write is a no-op (R197). -/
theorem setMemoryValue_of_ge {a : Word} {s : State} (h : s.dmem.size ≤ a.toNat) (v : Word) :
    setMemoryValue a v s = s :=
  if_neg fun hcell => h.not_gt ((s.hasCell_iff a).1 hcell)

theorem getMemoryValue_eq_ite (a : Word) (s : State) :
    getMemoryValue a s = if a.toNat < s.dmem.size then s.dmem.read a.toNat else 0#32 :=
  if_congr (s.hasCell_iff a) rfl rfl

theorem getMemoryValue_of_lt {a : Word} {s : State} (h : a.toNat < s.dmem.size) :
    getMemoryValue a s = s.dmem.read a.toNat :=
  (getMemoryValue_eq_ite a s).trans (if_pos h)

/-- An out-of-range read gives 0 (R198). -/
theorem getMemoryValue_of_ge {a : Word} {s : State} (h : s.dmem.size ≤ a.toNat) : getMemoryValue a s = 0#32 :=
  (getMemoryValue_eq_ite a s).trans (if_neg h.not_gt)

/-- The round trip of R198: the write keeps M, so the read is in range, and it meets the cell just written. -/
theorem getMemoryValue_setMemoryValue {a : Word} {s : State} (hmem : s.dmem.wf) (h : a.toNat < s.dmem.size) (v : Word) :
    getMemoryValue a (setMemoryValue a v s) = v := by
  have hsize : a.toNat < (s.memWrite a v).dmem.size := h
  rw [setMemoryValue_of_lt h, getMemoryValue_of_lt hsize]
  exact State.memRead_memWrite_same hmem a v

/-- Settles O45: in range the operation is the memory write of a STORE, with that write's frame. -/
theorem setMemoryValueWritesOneCellInBounds : Obligations.SetMemoryValueWritesOneCellInBounds := by
  refine fun a v s => ⟨fun hmem h => ?_, fun h => setMemoryValue_of_ge h v⟩
  rw [setMemoryValue_of_lt h]
  exact ⟨State.memRead_memWrite_same hmem a v, sameCellsBut_memWrite hmem a v, sameFixed_memWrite s a v, rfl, rfl, rfl⟩

/-- Settles O46: the two ranges of the address, and the round trip. -/
theorem getMemoryValueReadsInBoundsElseZero : Obligations.GetMemoryValueReadsInBoundsElseZero :=
  fun _ v _ => ⟨getMemoryValue_of_lt, getMemoryValue_of_ge, fun hmem h => getMemoryValue_setMemoryValue hmem h v⟩

/-! ## The host interface -/

/-- Settles O47: each operation is the one R196 lists by definition; what is left is the value a memory read replies. -/
theorem hostInterfaceActsAndRepliesAsListed : Obligations.HostInterfaceActsAndRepliesAsListed :=
  fun s => ⟨fun _ => ⟨rfl, rfl⟩, ⟨rfl, rfl⟩, fun _ _ => ⟨rfl, rfl⟩,
    fun a => ⟨rfl, congrArg HostReply.value (getMemoryValue_eq_ite a s)⟩, rfl, rfl⟩

/-- A load touches no part of data memory, and a cell write neither the program nor the engine, so a cell may be set on
either side of the load's effect (R200). -/
theorem setMemoryValue_loaded (p : List Record) (a v : Word) (s : State) :
    setMemoryValue a v ({ s with prog := p } : State).clearEngine =
      ({ setMemoryValue a v s with prog := p } : State).clearEngine := by
  rcases Nat.lt_or_ge a.toNat s.dmem.size with h | h
  · have h' : a.toNat < ({ s with prog := p } : State).clearEngine.dmem.size := h
    rw [setMemoryValue_of_lt h, setMemoryValue_of_lt h']
    rfl
  · have h' : ({ s with prog := p } : State).clearEngine.dmem.size ≤ a.toNat := h
    rw [setMemoryValue_of_ge h, setMemoryValue_of_ge h']

/-- Settles O48: both orders load a program that fits, and set the cell on one side of the load's effect. -/
theorem settingMemoryAndLoadingCommute : Obligations.SettingMemoryAndLoadingCommute :=
  fun p a v s hfits => ⟨_, loadProgram_of_fits hfits s,
    (loadProgram_of_fits hfits _).trans (congrArg Host.Outcome.next (setMemoryValue_loaded p a v s).symm)⟩

end Sys2Proof.Machine
end
